-- ==== Sys2Proof/Word.lean ====
section
/-! DEFINITION. The words of the DCPU-16e (spec/00_scope.md R3, R6). -/

namespace Sys2Proof

/-- Half a word: the unit in which the model stores memory (the machine itself has no bytes,
20_memory.md R63; log 3). -/
abbrev Byte := BitVec 8

/-- "A word is a 16-bit quantity" (R6): the only unit of memory and of registers. -/
abbrev Word := BitVec 16

/-- The number of a memory bank, 0 to 7 (R3, 10_state.md R30). -/
abbrev BankNo := BitVec 3

/-- The three access flags r (bit 2), w (bit 1) and e (bit 0) of a page (20_memory.md R74). -/
abbrev Flags := BitVec 3

end Sys2Proof
end

