-- ==== Sys2Proof/Syntax.lean ====
section
/-! DEFINITION. The instructions as syntax: one constructor for every row of spec/opcode_table.json, over the
operand values of spec/40_operands.md. A term carries its next words, so it is the whole instruction. -/

namespace Sys2Proof

/-- The general registers, "A, B, C, X, Y, Z, I or J, in that order" (40_operands.md R132, 10_state.md R20). -/
inductive Reg where
  | a | b | c | x | y | z | i | j
  deriving DecidableEq, Repr

/-- The operand values that mean the same in both fields (30_encoding.md R113). -/
inductive Operand where
  /-- register, values 0x00 to 0x07 (R132) -/
  | reg (r : Reg)
  /-- [register], values 0x08 to 0x0f (R133) -/
  | ind (r : Reg)
  /-- [register + next word], values 0x10 to 0x17 (R134) -/
  | indOff (r : Reg) (n : Word)
  /-- [SP] / PEEK, value 0x19 (R137) -/
  | peek
  /-- [SP + next word] / PICK n, value 0x1a (R138) -/
  | pick (n : Word)
  /-- SP, value 0x1b (R139) -/
  | sp
  /-- PC, value 0x1c (R142) -/
  | pc
  /-- EX, value 0x1d (R143) -/
  | ex
  /-- [next word], value 0x1e (R144) -/
  | abs (n : Word)
  /-- next word (literal), value 0x1f (R145) -/
  | lit (n : Word)
  deriving DecidableEq, Repr

/-- The six-bit a field. -/
inductive AOperand where
  /-- a value that both fields have -/
  | op (o : Operand)
  /-- POP / [SP++], value 0x18 in a (R135) -/
  | pop
  /-- the literal values -1 to 30, values 0x20 to 0x3f, only for a (R146) -/
  | short (v : Word)
  deriving DecidableEq, Repr

/-- The five-bit b field. -/
inductive BOperand where
  /-- a value that both fields have -/
  | op (o : Operand)
  /-- PUSH / [--SP], value 0x18 in b (R136) -/
  | push
  deriving DecidableEq, Repr

/-- One constructor for every row of spec/opcode_table.json (30_encoding.md R106 to R109). -/
inductive Instr where
  /-- SET b, a: basic opcode 0x01 (R161). -/
  | set (b : BOperand) (a : AOperand)
  /-- ADD b, a: basic opcode 0x02 (R162). -/
  | add (b : BOperand) (a : AOperand)
  /-- SUB b, a: basic opcode 0x03 (R163). -/
  | sub (b : BOperand) (a : AOperand)
  /-- MUL b, a: basic opcode 0x04 (R164). -/
  | mul (b : BOperand) (a : AOperand)
  /-- MLI b, a: basic opcode 0x05 (R165). -/
  | mli (b : BOperand) (a : AOperand)
  /-- DIV b, a: basic opcode 0x06 (R166). -/
  | div (b : BOperand) (a : AOperand)
  /-- DVI b, a: basic opcode 0x07 (R167). -/
  | dvi (b : BOperand) (a : AOperand)
  /-- MOD b, a: basic opcode 0x08 (R168). -/
  | mod (b : BOperand) (a : AOperand)
  /-- MDI b, a: basic opcode 0x09 (R169). -/
  | mdi (b : BOperand) (a : AOperand)
  /-- AND b, a: basic opcode 0x0a (R181). -/
  | and (b : BOperand) (a : AOperand)
  /-- BOR b, a: basic opcode 0x0b (R182). -/
  | bor (b : BOperand) (a : AOperand)
  /-- XOR b, a: basic opcode 0x0c (R183). -/
  | xor (b : BOperand) (a : AOperand)
  /-- SHR b, a: basic opcode 0x0d (R184). -/
  | shr (b : BOperand) (a : AOperand)
  /-- ASR b, a: basic opcode 0x0e (R185). -/
  | asr (b : BOperand) (a : AOperand)
  /-- SHL b, a: basic opcode 0x0f (R186). -/
  | shl (b : BOperand) (a : AOperand)
  /-- IFB b, a: basic opcode 0x10 (R191). -/
  | ifb (b : BOperand) (a : AOperand)
  /-- IFC b, a: basic opcode 0x11 (R192). -/
  | ifc (b : BOperand) (a : AOperand)
  /-- IFE b, a: basic opcode 0x12 (R193). -/
  | ife (b : BOperand) (a : AOperand)
  /-- IFN b, a: basic opcode 0x13 (R194). -/
  | ifn (b : BOperand) (a : AOperand)
  /-- IFG b, a: basic opcode 0x14 (R195). -/
  | ifg (b : BOperand) (a : AOperand)
  /-- IFA b, a: basic opcode 0x15 (R196). -/
  | ifa (b : BOperand) (a : AOperand)
  /-- IFL b, a: basic opcode 0x16 (R197). -/
  | ifl (b : BOperand) (a : AOperand)
  /-- IFU b, a: basic opcode 0x17 (R198). -/
  | ifu (b : BOperand) (a : AOperand)
  /-- ADX b, a: basic opcode 0x1a (R206). -/
  | adx (b : BOperand) (a : AOperand)
  /-- SBX b, a: basic opcode 0x1b (R207). -/
  | sbx (b : BOperand) (a : AOperand)
  /-- STI b, a: basic opcode 0x1e (R209). -/
  | sti (b : BOperand) (a : AOperand)
  /-- STD b, a: basic opcode 0x1f (R210). -/
  | std (b : BOperand) (a : AOperand)
  /-- JSR a: special opcode 0x01 (R216). -/
  | jsr (a : AOperand)
  /-- MBG a: special opcode 0x05 (R221). -/
  | mbg (a : AOperand)
  /-- MBO a: special opcode 0x06 (R222). -/
  | mbo (a : AOperand)
  /-- INT a: special opcode 0x08 (R231). -/
  | int (a : AOperand)
  /-- IAG a: special opcode 0x09 (R233). -/
  | iag (a : AOperand)
  /-- IAS a: special opcode 0x0a (R234). -/
  | ias (a : AOperand)
  /-- RFI a: special opcode 0x0b (R236). -/
  | rfi (a : AOperand)
  /-- IAQ a: special opcode 0x0c (R238). -/
  | iaq (a : AOperand)
  /-- HWN a: special opcode 0x10 (R246). -/
  | hwn (a : AOperand)
  /-- HWQ a: special opcode 0x11 (R247). -/
  | hwq (a : AOperand)
  /-- HWI a: special opcode 0x12 (R248). -/
  | hwi (a : AOperand)
  /-- GRM a: special opcode 0x16 (R256). -/
  | grm (a : AOperand)
  /-- DRM a: special opcode 0x17 (R257). -/
  | drm (a : AOperand)
  /-- SRT a: special opcode 0x18 (R258). -/
  | srt (a : AOperand)
  /-- unassigned basic opcode: basic opcode 0x18 (R108). -/
  | basic18 (b : BOperand) (a : AOperand)
  /-- unassigned basic opcode: basic opcode 0x19 (R108). -/
  | basic19 (b : BOperand) (a : AOperand)
  /-- unassigned basic opcode: basic opcode 0x1c (R108). -/
  | basic1c (b : BOperand) (a : AOperand)
  /-- unassigned basic opcode: basic opcode 0x1d (R108). -/
  | basic1d (b : BOperand) (a : AOperand)
  /-- unassigned or reserved special opcode: special opcode 0x00 (R109). -/
  | special00 (a : AOperand)
  /-- unassigned or reserved special opcode: special opcode 0x02 (R109). -/
  | special02 (a : AOperand)
  /-- unassigned or reserved special opcode: special opcode 0x03 (R109). -/
  | special03 (a : AOperand)
  /-- unassigned or reserved special opcode: special opcode 0x04 (R109). -/
  | special04 (a : AOperand)
  /-- unassigned or reserved special opcode: special opcode 0x07 (R109). -/
  | special07 (a : AOperand)
  /-- unassigned or reserved special opcode: special opcode 0x0d (R109). -/
  | special0d (a : AOperand)
  /-- unassigned or reserved special opcode: special opcode 0x0e (R109). -/
  | special0e (a : AOperand)
  /-- unassigned or reserved special opcode: special opcode 0x0f (R109). -/
  | special0f (a : AOperand)
  /-- unassigned or reserved special opcode: special opcode 0x13 (R109). -/
  | special13 (a : AOperand)
  /-- unassigned or reserved special opcode: special opcode 0x14 (R109). -/
  | special14 (a : AOperand)
  /-- unassigned or reserved special opcode: special opcode 0x15 (R109). -/
  | special15 (a : AOperand)
  /-- unassigned or reserved special opcode: special opcode 0x19 (R109). -/
  | special19 (a : AOperand)
  /-- unassigned or reserved special opcode: special opcode 0x1a (R109). -/
  | special1a (a : AOperand)
  /-- unassigned or reserved special opcode: special opcode 0x1b (R109). -/
  | special1b (a : AOperand)
  /-- unassigned or reserved special opcode: special opcode 0x1c (R109). -/
  | special1c (a : AOperand)
  /-- unassigned or reserved special opcode: special opcode 0x1d (R109). -/
  | special1d (a : AOperand)
  /-- unassigned or reserved special opcode: special opcode 0x1e (R109). -/
  | special1e (a : AOperand)
  /-- unassigned or reserved special opcode: special opcode 0x1f (R109). -/
  | special1f (a : AOperand)
  deriving DecidableEq, Repr

end Sys2Proof
end

