-- ==== Sys2Proof/WellFormed.lean ====
section
/-! DEFINITION. What an instruction term must satisfy to have an encoding (spec/40_operands.md R146). -/

namespace Sys2Proof

/-- Only a short literal can be ill-formed: "literal value 0xffff-0x1e (-1..30)" (R146). -/
def AOperand.wellFormed : AOperand → Bool
  | .short v => v == 0xffff || v ≤ 30
  | .pop => true
  | .op _ => true

/-- The a operand of an instruction: every instruction has one (30_encoding.md R101, R102). -/
def Instr.operandA : Instr → AOperand
  | .set _ a => a
  | .add _ a => a
  | .sub _ a => a
  | .mul _ a => a
  | .mli _ a => a
  | .div _ a => a
  | .dvi _ a => a
  | .mod _ a => a
  | .mdi _ a => a
  | .and _ a => a
  | .bor _ a => a
  | .xor _ a => a
  | .shr _ a => a
  | .asr _ a => a
  | .shl _ a => a
  | .ifb _ a => a
  | .ifc _ a => a
  | .ife _ a => a
  | .ifn _ a => a
  | .ifg _ a => a
  | .ifa _ a => a
  | .ifl _ a => a
  | .ifu _ a => a
  | .adx _ a => a
  | .sbx _ a => a
  | .sti _ a => a
  | .std _ a => a
  | .jsr a => a
  | .mbg a => a
  | .mbo a => a
  | .int a => a
  | .iag a => a
  | .ias a => a
  | .rfi a => a
  | .iaq a => a
  | .hwn a => a
  | .hwq a => a
  | .hwi a => a
  | .grm a => a
  | .drm a => a
  | .srt a => a
  | .basic18 _ a => a
  | .basic19 _ a => a
  | .basic1c _ a => a
  | .basic1d _ a => a
  | .special00 a => a
  | .special02 a => a
  | .special03 a => a
  | .special04 a => a
  | .special07 a => a
  | .special0d a => a
  | .special0e a => a
  | .special0f a => a
  | .special13 a => a
  | .special14 a => a
  | .special15 a => a
  | .special19 a => a
  | .special1a a => a
  | .special1b a => a
  | .special1c a => a
  | .special1d a => a
  | .special1e a => a
  | .special1f a => a

/-- The b operand: basic instructions have one, special instructions none (R101, R102). -/
def Instr.operandB : Instr → Option BOperand
  | .set b _ => some b
  | .add b _ => some b
  | .sub b _ => some b
  | .mul b _ => some b
  | .mli b _ => some b
  | .div b _ => some b
  | .dvi b _ => some b
  | .mod b _ => some b
  | .mdi b _ => some b
  | .and b _ => some b
  | .bor b _ => some b
  | .xor b _ => some b
  | .shr b _ => some b
  | .asr b _ => some b
  | .shl b _ => some b
  | .ifb b _ => some b
  | .ifc b _ => some b
  | .ife b _ => some b
  | .ifn b _ => some b
  | .ifg b _ => some b
  | .ifa b _ => some b
  | .ifl b _ => some b
  | .ifu b _ => some b
  | .adx b _ => some b
  | .sbx b _ => some b
  | .sti b _ => some b
  | .std b _ => some b
  | .jsr _ => none
  | .mbg _ => none
  | .mbo _ => none
  | .int _ => none
  | .iag _ => none
  | .ias _ => none
  | .rfi _ => none
  | .iaq _ => none
  | .hwn _ => none
  | .hwq _ => none
  | .hwi _ => none
  | .grm _ => none
  | .drm _ => none
  | .srt _ => none
  | .basic18 b _ => some b
  | .basic19 b _ => some b
  | .basic1c b _ => some b
  | .basic1d b _ => some b
  | .special00 _ => none
  | .special02 _ => none
  | .special03 _ => none
  | .special04 _ => none
  | .special07 _ => none
  | .special0d _ => none
  | .special0e _ => none
  | .special0f _ => none
  | .special13 _ => none
  | .special14 _ => none
  | .special15 _ => none
  | .special19 _ => none
  | .special1a _ => none
  | .special1b _ => none
  | .special1c _ => none
  | .special1d _ => none
  | .special1e _ => none
  | .special1f _ => none

/-- An instruction is well-formed when its a operand can be encoded (R146). -/
def Instr.wellFormed (i : Instr) : Bool := i.operandA.wellFormed

end Sys2Proof
end

