-- ==== Sys2Proof/Decode.lean ====
section
/-! DEFINITION. From words to instructions and back (spec/30_encoding.md, operand fields of
spec/40_operands.md). A word list is read from its head: the first word, then the next words in memory order. -/

namespace Sys2Proof

/-- Why a word list is no instruction: every first word is one (30_encoding.md R105), so only missing words are
left. -/
inductive DecodeError where
  /-- There is no first word. Safe: nothing is decoded. -/
  | noFirstWord
  /-- The first word announces a next word (R103) that the list does not hold. Safe: nothing is decoded. -/
  | missingNextWord
  deriving DecidableEq, Repr

/-! ## Fields of the first word -/

/-- Opcode field o, bits 4 to 0 (R101). -/
def fieldO (w : Word) : BitVec 5 := w.extractLsb' 0 5

/-- Field b, or the special opcode o', bits 9 to 5 (R101, R102). -/
def fieldB (w : Word) : BitVec 5 := w.extractLsb' 5 5

/-- Field a, bits 15 to 10 (R101, R102). -/
def fieldA (w : Word) : BitVec 6 := w.extractLsb' 10 6

/-- nw(f): 1 for the operand values that use a next word (R103). -/
def nextWordsOfValue (f : Nat) : Nat :=
  if (0x10 ≤ f ∧ f ≤ 0x17) ∨ f = 0x1a ∨ f = 0x1e ∨ f = 0x1f then 1 else 0

/-- The length in words that a first word announces, for every first word (R103). -/
def wordLength (w : Word) : Nat :=
  1 + nextWordsOfValue (fieldA w).toNat +
    (if fieldO w = 0 then 0 else nextWordsOfValue (fieldB w).toNat)

/-- A first word of a conditional instruction: basic opcodes 0x10 to 0x17 (43_conditionals.md R199). -/
def isConditionalWord (w : Word) : Bool := 0x10 ≤ fieldO w && fieldO w ≤ 0x17

/-! ## Operand fields -/

/-- The number of a register (40_operands.md R132). -/
def Reg.code : Reg → BitVec 3
  | .a => 0 | .b => 1 | .c => 2 | .x => 3 | .y => 4 | .z => 5 | .i => 6 | .j => 7

/-- The register of a number (R132). -/
def Reg.ofCode (n : BitVec 3) : Reg :=
  match n.toNat with
  | 0 => .a | 1 => .b | 2 => .c | 3 => .x | 4 => .y | 5 => .z | 6 => .i
  | _ => .j

/-- Values 0x00 to 0x1f but 0x18, which alone means a different thing in each field (30_encoding.md R113). -/
def decodeCommon (f : BitVec 5) (next : Word) : Option Operand :=
  match (f.extractLsb' 3 2).toNat with
  | 0 => some (.reg (Reg.ofCode (f.extractLsb' 0 3)))
  | 1 => some (.ind (Reg.ofCode (f.extractLsb' 0 3)))
  | 2 => some (.indOff (Reg.ofCode (f.extractLsb' 0 3)) next)
  | _ =>
    match (f.extractLsb' 0 3).toNat with
    | 0 => none
    | 1 => some .peek
    | 2 => some (.pick next)
    | 3 => some .sp
    | 4 => some .pc
    | 5 => some .ex
    | 6 => some (.abs next)
    | _ => some (.lit next)

/-- The b field: 0x18 is PUSH (40_operands.md R136). -/
def decodeB (f : BitVec 5) (next : Word) : BOperand :=
  match decodeCommon f next with
  | some o => .op o
  | none => .push

/-- The a field: 0x18 is POP (R135), 0x20 to 0x3f are the literals -1 to 30 (R146). -/
def decodeA (f : BitVec 6) (next : Word) : AOperand :=
  if f.msb then .short (f.setWidth 16 - 0x21)
  else
    match decodeCommon (f.setWidth 5) next with
    | some o => .op o
    | none => .pop

/-! ## Instructions -/

/-- The special opcodes (30_encoding.md R107, R109). -/
def decodeSpecial (o : BitVec 5) (a : AOperand) : Instr :=
  match o.toNat with
  | 0x00 => .special00 a
  | 0x01 => .jsr a
  | 0x02 => .special02 a
  | 0x03 => .special03 a
  | 0x04 => .special04 a
  | 0x05 => .mbg a
  | 0x06 => .mbo a
  | 0x07 => .special07 a
  | 0x08 => .int a
  | 0x09 => .iag a
  | 0x0a => .ias a
  | 0x0b => .rfi a
  | 0x0c => .iaq a
  | 0x0d => .special0d a
  | 0x0e => .special0e a
  | 0x0f => .special0f a
  | 0x10 => .hwn a
  | 0x11 => .hwq a
  | 0x12 => .hwi a
  | 0x13 => .special13 a
  | 0x14 => .special14 a
  | 0x15 => .special15 a
  | 0x16 => .grm a
  | 0x17 => .drm a
  | 0x18 => .srt a
  | 0x19 => .special19 a
  | 0x1a => .special1a a
  | 0x1b => .special1b a
  | 0x1c => .special1c a
  | 0x1d => .special1d a
  | 0x1e => .special1e a
  | _ => .special1f a -- 0x1f, the one value of five bits left

/-- The basic opcodes (R106, R108). -/
def decodeBasic (o : BitVec 5) (b : BOperand) (a : AOperand) : Instr :=
  match o.toNat with
  | 0x01 => .set b a
  | 0x02 => .add b a
  | 0x03 => .sub b a
  | 0x04 => .mul b a
  | 0x05 => .mli b a
  | 0x06 => .div b a
  | 0x07 => .dvi b a
  | 0x08 => .mod b a
  | 0x09 => .mdi b a
  | 0x0a => .and b a
  | 0x0b => .bor b a
  | 0x0c => .xor b a
  | 0x0d => .shr b a
  | 0x0e => .asr b a
  | 0x0f => .shl b a
  | 0x10 => .ifb b a
  | 0x11 => .ifc b a
  | 0x12 => .ife b a
  | 0x13 => .ifn b a
  | 0x14 => .ifg b a
  | 0x15 => .ifa b a
  | 0x16 => .ifl b a
  | 0x17 => .ifu b a
  | 0x18 => .basic18 b a
  | 0x19 => .basic19 b a
  | 0x1a => .adx b a
  | 0x1b => .sbx b a
  | 0x1c => .basic1c b a
  | 0x1d => .basic1d b a
  | 0x1e => .sti b a
  | _ => .std b a -- 0x1f: 0 is the special format, so no other value is left (decodeWords)

/-- The instruction whose first word is `w` and whose following words are `w1` and `w2` as far as it uses them:
a's next word comes before b's (R104, R105). -/
def decodeWords (w w1 w2 : Word) : Instr :=
  let a := decodeA (fieldA w) w1
  if fieldO w = 0 then decodeSpecial (fieldB w) a
  else
    let next := if nextWordsOfValue (fieldA w).toNat = 0 then w1 else w2
    decodeBasic (fieldO w) (decodeB (fieldB w) next) a

/-- Read one instruction from the head of a word list; what is left comes with it. Total, and a list that is too
short is rejected by name. -/
def decode : List Word → Except DecodeError (Instr × List Word)
  | [] => .error .noFirstWord
  | w :: rest =>
    if rest.length < wordLength w - 1 then .error .missingNextWord
    else .ok (decodeWords w (rest.getD 0 0) (rest.getD 1 0), rest.drop (wordLength w - 1))

/-- The words of an instruction as spec/opcode_table.json numbers its bits: the first word is the low 16 bits,
and every bit from `nbits` on is 0. -/
def tableWords (nbits w : Nat) : List Word :=
  let v := w % 2 ^ nbits
  [BitVec.ofNat 16 v, BitVec.ofNat 16 (v >>> 16), BitVec.ofNat 16 (v >>> 32)]

/-- The instruction the decoder reads from an instruction's bits in the table's numbering. -/
def decodeTableWord (nbits w : Nat) : Option Instr :=
  match decode (tableWords nbits w) with
  | .ok (i, _) => some i
  | .error _ => none

/-! ## Encoding -/

/-- The five-bit value of an operand form (40_operands.md R132 to R145). -/
def Operand.field : Operand → BitVec 5
  | .reg r => 0#2 ++ r.code
  | .ind r => 1#2 ++ r.code
  | .indOff r _ => 2#2 ++ r.code
  | .peek => 0x19
  | .pick _ => 0x1a
  | .sp => 0x1b
  | .pc => 0x1c
  | .ex => 0x1d
  | .abs _ => 0x1e
  | .lit _ => 0x1f

/-- The next word an operand form uses (R103). -/
def Operand.nextWord : Operand → Option Word
  | .indOff _ n => some n
  | .pick n => some n
  | .abs n => some n
  | .lit n => some n
  | .reg _ => none
  | .ind _ => none
  | .peek => none
  | .sp => none
  | .pc => none
  | .ex => none

/-- The six-bit a field (R135, R146). -/
def AOperand.field : AOperand → BitVec 6
  | .op o => 0#1 ++ o.field
  | .pop => 0x18
  | .short v => (v + 0x21).setWidth 6

/-- The next word of an a operand. -/
def AOperand.nextWord : AOperand → Option Word
  | .op o => o.nextWord
  | .pop => none
  | .short _ => none

/-- The five-bit b field (R136). -/
def BOperand.field : BOperand → BitVec 5
  | .op o => o.field
  | .push => 0x18

/-- The next word of a b operand. -/
def BOperand.nextWord : BOperand → Option Word
  | .op o => o.nextWord
  | .push => none

/-- nw of an a operand (R103). -/
def AOperand.words (a : AOperand) : Nat := a.nextWord.toList.length

/-- nw of a b operand (R103). -/
def BOperand.words (b : BOperand) : Nat := b.nextWord.toList.length

/-- The basic opcode of a basic instruction, the special opcode of a special one (R106, R107). -/
def Instr.opcode : Instr → BitVec 5
  | .set _ _ => 0x01
  | .add _ _ => 0x02
  | .sub _ _ => 0x03
  | .mul _ _ => 0x04
  | .mli _ _ => 0x05
  | .div _ _ => 0x06
  | .dvi _ _ => 0x07
  | .mod _ _ => 0x08
  | .mdi _ _ => 0x09
  | .and _ _ => 0x0a
  | .bor _ _ => 0x0b
  | .xor _ _ => 0x0c
  | .shr _ _ => 0x0d
  | .asr _ _ => 0x0e
  | .shl _ _ => 0x0f
  | .ifb _ _ => 0x10
  | .ifc _ _ => 0x11
  | .ife _ _ => 0x12
  | .ifn _ _ => 0x13
  | .ifg _ _ => 0x14
  | .ifa _ _ => 0x15
  | .ifl _ _ => 0x16
  | .ifu _ _ => 0x17
  | .adx _ _ => 0x1a
  | .sbx _ _ => 0x1b
  | .sti _ _ => 0x1e
  | .std _ _ => 0x1f
  | .jsr _ => 0x01
  | .mbg _ => 0x05
  | .mbo _ => 0x06
  | .int _ => 0x08
  | .iag _ => 0x09
  | .ias _ => 0x0a
  | .rfi _ => 0x0b
  | .iaq _ => 0x0c
  | .hwn _ => 0x10
  | .hwq _ => 0x11
  | .hwi _ => 0x12
  | .grm _ => 0x16
  | .drm _ => 0x17
  | .srt _ => 0x18
  | .basic18 _ _ => 0x18
  | .basic19 _ _ => 0x19
  | .basic1c _ _ => 0x1c
  | .basic1d _ _ => 0x1d
  | .special00 _ => 0x00
  | .special02 _ => 0x02
  | .special03 _ => 0x03
  | .special04 _ => 0x04
  | .special07 _ => 0x07
  | .special0d _ => 0x0d
  | .special0e _ => 0x0e
  | .special0f _ => 0x0f
  | .special13 _ => 0x13
  | .special14 _ => 0x14
  | .special15 _ => 0x15
  | .special19 _ => 0x19
  | .special1a _ => 0x1a
  | .special1b _ => 0x1b
  | .special1c _ => 0x1c
  | .special1d _ => 0x1d
  | .special1e _ => 0x1e
  | .special1f _ => 0x1f

/-- The first word (R101, R102). -/
def Instr.firstWord (i : Instr) : Word :=
  match i.operandB with
  | some b => i.operandA.field ++ b.field ++ i.opcode
  | none => i.operandA.field ++ i.opcode ++ 0#5

/-- The next words in memory order: a's, then b's (R104). -/
def Instr.nextWords (i : Instr) : List Word :=
  i.operandA.nextWord.toList ++ (match i.operandB with
    | some b => b.nextWord.toList
    | none => [])

/-- The words of an instruction, in memory order (R100 to R104). -/
def encode (i : Instr) : List Word := i.firstWord :: i.nextWords

/-- The length of an instruction in words (R103). -/
def Instr.length (i : Instr) : Nat :=
  1 + i.operandA.words + (match i.operandB with
    | some b => b.words
    | none => 0)

/-- The eight instructions that user mode disables (60_exceptions.md R286). -/
def Instr.privileged : Instr → Bool
  | .set _ _ => false
  | .add _ _ => false
  | .sub _ _ => false
  | .mul _ _ => false
  | .mli _ _ => false
  | .div _ _ => false
  | .dvi _ _ => false
  | .mod _ _ => false
  | .mdi _ _ => false
  | .and _ _ => false
  | .bor _ _ => false
  | .xor _ _ => false
  | .shr _ _ => false
  | .asr _ _ => false
  | .shl _ _ => false
  | .ifb _ _ => false
  | .ifc _ _ => false
  | .ife _ _ => false
  | .ifn _ _ => false
  | .ifg _ _ => false
  | .ifa _ _ => false
  | .ifl _ _ => false
  | .ifu _ _ => false
  | .adx _ _ => false
  | .sbx _ _ => false
  | .sti _ _ => false
  | .std _ _ => false
  | .jsr _ => false
  | .mbg _ => false
  | .mbo _ => true
  | .int _ => false
  | .iag _ => false
  | .ias _ => true
  | .rfi _ => true
  | .iaq _ => true
  | .hwn _ => true
  | .hwq _ => true
  | .hwi _ => true
  | .grm _ => false
  | .drm _ => false
  | .srt _ => true
  | .basic18 _ _ => false
  | .basic19 _ _ => false
  | .basic1c _ _ => false
  | .basic1d _ _ => false
  | .special00 _ => false
  | .special02 _ => false
  | .special03 _ => false
  | .special04 _ => false
  | .special07 _ => false
  | .special0d _ => false
  | .special0e _ => false
  | .special0f _ => false
  | .special13 _ => false
  | .special14 _ => false
  | .special15 _ => false
  | .special19 _ => false
  | .special1a _ => false
  | .special1b _ => false
  | .special1c _ => false
  | .special1d _ => false
  | .special1e _ => false
  | .special1f _ => false

end Sys2Proof
end

