-- ==== Sys2Proof/Config.lean ====
section
/-! DEFINITION. What is fixed for the machine (spec/00_scope.md R3) and the free values: constants with no
body, so that nothing can be proved of the value the spec leaves open. -/

namespace Sys2Proof.Config

/-- Words in one memory bank (R3). -/
def bankWords : Nat := 0x10000

/-- Memory banks (R3). -/
def banks : Nat := 8

/-- Words in one descriptor page (R3, 20_memory.md R74). -/
def pageWords : Nat := 256

/-- Pages in one bank (10_state.md R37). -/
def pages : Nat := 256

/-- Words copied by one MBO (R3, 46_banks.md R222). -/
def blockWords : Nat := 512

/-- "If the queue grows longer than 256 interrupts, the DCPU-16e will catch fire" (60_exceptions.md R275). -/
def queueLimit : Nat := 256

/-- At most 65535 hardware devices (R3, 48_hardware_instr.md R245). -/
def deviceLimit : Nat := 65535

/-- FREE VALUE. "five unspecified 16-bit values" (48_hardware_instr.md R247): what HWQ of an absent device
leaves in A, B, C, X and Y. The step applies it to a fresh counter value each time (log 6). -/
opaque absentDeviceWord : Nat → BitVec 16

/-- FREE VALUE. "The source gives no cost for delivering a hardware interrupt or for a GPF"
(70_reset_and_hazards.md R344). The step applies it to a fresh counter value each time (log 7). -/
opaque unstatedCycles : Nat → Nat

/-- FREE VALUE. "A word the launch does not define must not be assumed zero" (10_state.md R49; `P_INITIAL_MEMORY`,
92_eei_decisions.md D2): the half word that RAM holds at launch under a cell key for which no image is given (log 2). -/
opaque initialByte : Nat → BitVec 8

end Sys2Proof.Config
end

