-- ==== Sys2Proof/Machine/State.lean ====
section
/-! DEFINITION. The state of the DCPU-16e (spec/10_state.md), plain data, and the reasons a step can stop. -/

namespace Sys2Proof.Machine

/-- The eight general registers (10_state.md R20). -/
structure Regs where
  a : Word
  b : Word
  c : Word
  x : Word
  y : Word
  z : Word
  i : Word
  j : Word
  deriving DecidableEq, Repr

/-- The eight banks of RAM (R33), as cells of half a word each: word `addr` of bank `k` is the two cells at keys
`2 * (65536 * k + addr)` (low half) and one more (high half), log 3. Keys rise. An unlisted key reads as a free value
(`Memory.blank`, log 2), so what is listed is what a launch image or a write has defined. -/
abbrev Memory := List Host.Cell

/-- The compiled descriptor tables `perm[k][p]` (R37): the flags of page `p` of bank `k` under key `256 * k + p`.
Keys rise, and a page with no flag is not listed. -/
abbrev PermTable := List (Nat × Flags)

/-- What HWQ reads of a connected device (48_hardware_instr.md R247), and whether its documentation lets it reach
banks other than bank 0 (60_exceptions.md R303). -/
structure DeviceInfo where
  id : BitVec 32
  version : Word
  manufacturer : BitVec 32
  otherBanks : Bool
  deriving DecidableEq, Repr

/-- A connected device: the constant part, and `hwi_seen` (10_state.md R40). -/
structure Device where
  info : DeviceInfo
  hwiSeen : Bool
  deriving DecidableEq, Repr

/-- One thing a device can change: "any general register, PC, SP, EX and any word of bank 0 (other banks only if its
own documentation says so)" (60_exceptions.md R303). -/
inductive DeviceWrite where
  | reg (r : Reg) (v : Word)
  | pc (v : Word)
  | sp (v : Word)
  | ex (v : Word)
  | mem (bank : BankNo) (addr : Word) (v : Word)
  deriving DecidableEq, Repr

/-- One act of a device in phase A of a step (R303, R304). -/
inductive DeviceEvent where
  /-- device `dev` raises an interrupt with message `msg` (R276) -/
  | interrupt (dev : Nat) (msg : Word)
  /-- device `dev` changes something (R303) -/
  | write (dev : Nat) (w : DeviceWrite)
  deriving DecidableEq, Repr

/-- What the addressed device does during one HWI: the changes it makes, in order, and the additional cycles it takes
(48_hardware_instr.md R248, 70_reset_and_hazards.md R344). -/
structure HwiAnswer where
  extraCycles : Nat
  writes : List DeviceWrite
  deriving DecidableEq, Repr

/-- The state of the machine. -/
structure State where
  /-- A, B, C, X, Y, Z, I, J (10_state.md R20) -/
  regs : Regs
  /-- program counter (R23) -/
  pc : Word
  /-- stack pointer (R26) -/
  sp : Word
  /-- extra/excess (R27) -/
  ex : Word
  /-- interrupt address (R29) -/
  ia : Word
  /-- memory bank selector (R30) -/
  mb : BankNo
  /-- ring mode: 0 kernel, anything else user (R31) -/
  rm : Word
  /-- the eight banks (R33) -/
  mem : Memory
  /-- interrupt queueing flag (R34) -/
  iq : Bool
  /-- interrupt queue, oldest message first (R35) -/
  queue : List Word
  /-- "SRT has been called at least once" (R36) -/
  srtCalled : Bool
  /-- compiled descriptor tables (R37) -/
  perm : PermTable
  /-- the GDT's message word, captured by SRT (R38) -/
  gdtMsg : Word
  /-- the queue was asked to hold more than 256 interrupts (R39) -/
  onFire : Bool
  /-- the connected devices, `P_DEVICES`, with `hwi_seen` of each (R40, 60_exceptions.md R300) -/
  devices : List Device
  /-- MODEL'S OWN: what the devices do in phase A of the coming steps, one list a step; none when it is used up (log 4) -/
  deviceEvents : List (List DeviceEvent)
  /-- MODEL'S OWN: what the addressed devices do on the coming HWIs; nothing when it is used up (log 4) -/
  hwiAnswers : List HwiAnswer
  /-- MODEL'S OWN: how many free values have been drawn (log 6) -/
  freeCount : Nat
  /-- cycle counter, which nothing reads (70_reset_and_hazards.md R345) -/
  cycles : Nat
  deriving DecidableEq, Repr

/-- The model faults: "the model has no defined behaviour from this point" (00_scope.md R13). -/
inductive Fault where
  /-- Raised by executing an unassigned or reserved opcode (30_encoding.md R108, R109). Safe: the machine stops. -/
  | undefinedInstruction
  /-- Raised by interrupt entry when one of its pushes is denied in user mode (60_exceptions.md R282). Safe. -/
  | doubleFault
  /-- Raised when a 257th message would enter the queue, and by a step of a machine on fire (R275, R279). Safe. -/
  | onFire
  /-- Raised by HWI of a number with no device (48_hardware_instr.md R248). Safe. -/
  | noSuchDevice
  /-- Raised by a failed conditional whose skip chain meets only conditional first words all around the bank, so that
  the loop of 43_conditionals.md R199 never ends (log 8). Safe: there is no next state. -/
  | endlessSkip
  deriving DecidableEq, Repr

/-- The model gives no meaning. -/
inductive Refusal where
  /-- Raised by exec for an instruction without a meaning; none is left. Safe. -/
  | notModelled (mnemonic : String)
  /-- Raised by the device phase and by HWI when the device environment in State does what 60_exceptions.md R303
  forbids every device (93_implementation_defined.md U7; log 5). Safe: such an environment is no `P_DEVICES`. -/
  | invalidDevice
  deriving DecidableEq, Repr

/-- The outcome of a step or of a meaning. -/
abbrev Result := Host.Outcome State Fault Refusal

/-- The machine right after reset (10_state.md R42 to R49; log 1, log 2, log 4): kernel mode, bank 0, every register else
zero, every flag off, no device connected, and no word of memory defined: all of RAM is the free value of
`P_INITIAL_MEMORY`. -/
def State.reset : State where
  regs := { a := 0, b := 0, c := 0, x := 0, y := 0, z := 0, i := 0, j := 0 }
  pc := 0
  sp := 0
  ex := 0
  ia := 0
  mb := 0
  rm := 0
  mem := []
  iq := false
  queue := []
  srtCalled := false
  perm := []
  gdtMsg := 0
  onFire := false
  devices := []
  deviceEvents := []
  hwiAnswers := []
  freeCount := 0
  cycles := 0

end Sys2Proof.Machine
end

