-- ==== Sys2Proof/Machine/Memory.lean ====
section
/-! DEFINITION. Maps that list few of their keys, and the eight banks of RAM as one of them
(spec/20_memory.md R60, R63). -/

namespace Sys2Proof.Machine

/-! ## Maps that list some of their keys -/

/-- The cell listed under key `k`. -/
def Sparse.find {α : Type} : List (Nat × α) → Nat → Option α
  | [], _ => none
  | (j, v) :: rest, k => if j = k then some v else Sparse.find rest k

/-- What key `k` holds: its cell, or the default. -/
def Sparse.read {α : Type} (d : α) (l : List (Nat × α)) (k : Nat) : α := (Sparse.find l k).getD d

/-- Put a cell before the first larger key. -/
def Sparse.insert {α : Type} (k : Nat) (v : α) : List (Nat × α) → List (Nat × α)
  | [] => [(k, v)]
  | (j, w) :: rest => if k < j then (k, v) :: (j, w) :: rest else (j, w) :: Sparse.insert k v rest

/-- Take the cell of key `k` out. -/
def Sparse.erase {α : Type} (k : Nat) (l : List (Nat × α)) : List (Nat × α) := l.filter (fun c => c.1 ≠ k)

/-- List `v` under key `k`, in place of what was listed there. -/
def Sparse.put {α : Type} (l : List (Nat × α)) (k : Nat) (v : α) : List (Nat × α) :=
  Sparse.insert k v (Sparse.erase k l)

/-- Let key `k` hold `v`: its old cell goes, and a new one comes unless `v` is the default. -/
def Sparse.write {α : Type} [DecidableEq α] (d : α) (l : List (Nat × α)) (k : Nat) (v : α) : List (Nat × α) :=
  if v = d then Sparse.erase k l else Sparse.put l k v

/-- Keys rise strictly and lie below the bound. -/
abbrev Sparse.Rising {α : Type} (bound : Nat) (l : List (Nat × α)) : Prop :=
  l.Pairwise (fun x y => x.1 < y.1) ∧ ∀ c ∈ l, c.1 < bound

/-- The canonical form of a map with one default: keys rise, and no cell holds the default. -/
abbrev Sparse.WF {α : Type} [DecidableEq α] (d : α) (bound : Nat) (l : List (Nat × α)) : Prop :=
  Sparse.Rising bound l ∧ ∀ c ∈ l, c.2 ≠ d

/-! ## The banks -/

/-- What an unlisted cell reads as: the half word of `P_INITIAL_MEMORY`, a free value (10_state.md R49; log 2). -/
def Memory.blank (key : Nat) : Byte := Config.initialByte key

/-- The half word listed under a key: one that a launch image or a write has defined. -/
def Memory.listed (m : Memory) (key : Nat) : Option Byte := Sparse.find m key

/-- The half word under a key. -/
def Memory.byte (m : Memory) (key : Nat) : Byte := Sparse.read (Memory.blank key) m key

/-- Change the half word under a key. It is then listed, whatever the free value there may be (log 3). -/
def Memory.setByte (m : Memory) (key : Nat) (v : Byte) : Memory := Sparse.put m key v

/-- The key of the low half of word `addr` of bank `k` (log 3). -/
def cellKey (k : BankNo) (addr : Word) : Nat := 2 * (Config.bankWords * k.toNat + addr.toNat)

/-- Cells of the eight banks: two for each word. -/
def Memory.cells : Nat := 2 * (Config.banks * Config.bankWords)

/-- The word at `addr` of bank `k`: `Bank[k][addr]` (00_scope.md R8). -/
def Memory.word (m : Memory) (k : BankNo) (addr : Word) : Word :=
  m.byte (cellKey k addr + 1) ++ m.byte (cellKey k addr)

/-- `Bank[k][addr] <- v`. -/
def Memory.setWord (m : Memory) (k : BankNo) (addr : Word) (v : Word) : Memory :=
  (m.setByte (cellKey k addr) (v.extractLsb' 0 8)).setByte (cellKey k addr + 1) (v.extractLsb' 8 8)

/-- The canonical form of a memory: keys rise and lie in the eight banks. An unlisted cell reads as a free value, so
no listed half word is known to equal it (log 3). -/
abbrev Memory.wf (m : Memory) : Prop := Sparse.Rising Memory.cells m

/-- Copy `n` words of bank `s` from `addr` on to the same addresses of bank `d`, one after the other
(46_banks.md R222). -/
def Memory.copy (s d : BankNo) : Nat → Word → Memory → Memory
  | 0, _, m => m
  | n + 1, addr, m => Memory.copy s d n (addr + 1) (m.setWord d addr (m.word s addr))

/-! ## The compiled tables -/

/-- The key of page `p` of bank `k`. -/
def pageKey (k : BankNo) (p : Nat) : Nat := Config.pages * k.toNat + p

/-- `perm[k][p]` (10_state.md R37): no flag where nothing is listed. -/
def PermTable.flags (t : PermTable) (k : BankNo) (p : Nat) : Flags := Sparse.read 0 t (pageKey k p)

/-- `perm[k][p] <- perm[k][p] | f` (20_memory.md R76). -/
def PermTable.grant (t : PermTable) (k : BankNo) (p : Nat) (f : Flags) : PermTable :=
  Sparse.write 0 t (pageKey k p) (t.flags k p ||| f)

/-- The canonical form of the compiled tables. -/
abbrev PermTable.wf (t : PermTable) : Prop := Sparse.WF (0 : Flags) (Config.banks * Config.pages) t

end Sys2Proof.Machine
end

