-- ==== Sys2Proof/Machine/Ops.lean ====
section
/-! DEFINITION. The named operations every instruction is built from: registers, checked memory accesses
(spec/00_scope.md R10 to R12, spec/20_memory.md R78 to R80), the interrupt queue, taking an interrupt or a general
protection fault and returning from one (spec/60_exceptions.md). -/

namespace Sys2Proof.Machine

/-! ## Registers -/

/-- `x[r]` (00_scope.md R9). -/
def Regs.get (g : Regs) : Reg → Word
  | .a => g.a | .b => g.b | .c => g.c | .x => g.x | .y => g.y | .z => g.z | .i => g.i | .j => g.j

/-- `x[r] <- v`. -/
def Regs.set (g : Regs) (r : Reg) (v : Word) : Regs :=
  match r with
  | .a => { g with a := v }
  | .b => { g with b := v }
  | .c => { g with c := v }
  | .x => { g with x := v }
  | .y => { g with y := v }
  | .z => { g with z := v }
  | .i => { g with i := v }
  | .j => { g with j := v }

/-! ## One update for each field -/

def State.reg (s : State) (r : Reg) : Word := s.regs.get r
def State.setReg (s : State) (r : Reg) (v : Word) : State := { s with regs := s.regs.set r v }
def State.setPc (s : State) (v : Word) : State := { s with pc := v }
def State.setSp (s : State) (v : Word) : State := { s with sp := v }
def State.setEx (s : State) (v : Word) : State := { s with ex := v }
def State.setIa (s : State) (v : Word) : State := { s with ia := v }
def State.setMb (s : State) (v : BankNo) : State := { s with mb := v }
def State.setRm (s : State) (v : Word) : State := { s with rm := v }
def State.setMem (s : State) (m : Memory) : State := { s with mem := m }
def State.setIq (s : State) (v : Bool) : State := { s with iq := v }
def State.setQueue (s : State) (q : List Word) : State := { s with queue := q }
def State.setTables (s : State) (msg : Word) (t : PermTable) : State :=
  { s with gdtMsg := msg, perm := t, srtCalled := true }
def State.setDevices (s : State) (d : List Device) : State := { s with devices := d }
def State.setDeviceEvents (s : State) (e : List (List DeviceEvent)) : State := { s with deviceEvents := e }
def State.setHwiAnswers (s : State) (a : List HwiAnswer) : State := { s with hwiAnswers := a }
def State.drawFree (s : State) (n : Nat) : State := { s with freeCount := s.freeCount + n }
def State.addCycles (s : State) (n : Nat) : State := { s with cycles := s.cycles + n }
def State.setCycles (s : State) (n : Nat) : State := { s with cycles := n }

/-- Cycles the source gives no number for: a free value (70_reset_and_hazards.md R344; log 7). -/
def State.addUnstatedCycles (s : State) : State :=
  (s.addCycles (Config.unstatedCycles s.freeCount)).drawFree 1

/-- `Bank[k][addr]`, a raw read (R10). -/
def State.bank (s : State) (k : BankNo) (addr : Word) : Word := s.mem.word k addr

/-- `Bank[k][addr] <- v`, a raw write (R10). -/
def State.setBank (s : State) (k : BankNo) (addr : Word) (v : Word) : State := s.setMem (s.mem.setWord k addr v)

/-! ## General protection faults as the outcome of an access -/

/-- The two general protection faults (60_exceptions.md R290). -/
inductive Gpf where
  /-- GPFINS: a privileged instruction in user mode -/
  | ins
  /-- GPFMEM: a denied access in user mode -/
  | mem
  deriving DecidableEq, Repr

/-- GPF_MSG (R290). -/
def Gpf.code : Gpf → Word
  | .ins => 0x0001
  | .mem => 0x0002

/-- An instruction raised a GPF. `resume` is the pc that R292 leaves where that is not the address after the
instruction; `cycles` is the cycle counter at that moment, the denied consultation paid: the consultations before it are
not undone (70_reset_and_hazards.md R344, log 7). -/
structure Denial where
  gpf : Gpf
  resume : Option Word
  cycles : Nat
  deriving DecidableEq, Repr

/-- A part of an instruction that may raise a GPF. -/
abbrev Attempt (α : Type) := Except Denial α

/-! ## Checked accesses -/

/-- User mode: "kernel (0) or user (non-zero)" (R285). -/
def State.userMode (s : State) : Bool := s.rm != 0

/-- The kinds of access of the CPU (20_memory.md R78 to R80). -/
inductive Access where
  | read | write | execute
  deriving DecidableEq, Repr

/-- The flag an access needs: r is bit 2, w bit 1, e bit 0 (20_memory.md R74). -/
def Access.flag : Access → Flags
  | .read => 4
  | .write => 2
  | .execute => 1

/-- The page of an address (10_state.md R37). -/
def pageOf (addr : Word) : Nat := addr.toNat / Config.pageWords

/-- Whether the access is allowed: always in kernel mode (R70); in user mode by the table of the selected bank
(R78 to R81). -/
def State.permits (s : State) (x : Access) (addr : Word) : Bool :=
  !s.userMode || (s.perm.flags s.mb (pageOf addr) &&& x.flag) != 0

/-- "Each time a descriptor table is consulted, there is a cost of 1 cycle" (70_reset_and_hazards.md R344). -/
def State.consult (s : State) : State := if s.userMode then s.addCycles 1 else s

/-- The check before an access: in user mode a denied one raises GPFMEM (R78 to R80). Either way it has cost its
cycle. -/
def check (x : Access) (addr : Word) (s : State) : Attempt State :=
  if s.permits x addr then .ok s.consult else .error { gpf := .mem, resume := none, cycles := s.consult.cycles }

/-- `MemRead(addr, 1)` (00_scope.md R10, 20_memory.md R78). -/
def memRead (addr : Word) (s : State) : Attempt (Word × State) := do
  let s ← check .read addr s
  return (s.bank s.mb addr, s)

/-- `MemWrite(addr, 1, v)` (R10, R80). -/
def memWrite (addr : Word) (v : Word) (s : State) : Attempt State := do
  let s ← check .write addr s
  return s.setBank s.mb addr v

/-- `MemFetch(pc, 1)` for the first word of an instruction being skipped: a denial leaves pc one past that word
(R79, 43_conditionals.md R203, 60_exceptions.md R292). -/
def skipFetch (s : State) : Attempt (Word × State) :=
  if s.permits .execute s.pc then .ok (s.bank s.mb s.pc, s.consult)
  else .error { gpf := .mem, resume := some (s.pc + 1), cycles := s.consult.cycles }

/-- `NextWord()` for a next word of the instruction (R11): needs 'execute', moves pc, costs a cycle
(70_reset_and_hazards.md R340). The word itself is in the instruction term (log 15). -/
def passNextWord (s : State) : Attempt State := do
  let s ← check .execute s.pc s
  return (s.setPc (s.pc + 1)).addCycles 1

/-- The first word has been fetched: pc is past it (R11), and in user mode its check is paid. -/
def State.pastFirstWord (s : State) : State := (s.setPc (s.pc + 1)).consult

/-- `Push(v)` (R12). -/
def push (v : Word) (s : State) : Attempt State :=
  memWrite (s.sp - 1) v (s.setSp (s.sp - 1))

/-- `Pop()` (R12). -/
def pop (s : State) : Attempt (Word × State) := do
  let (v, s) ← memRead s.sp s
  return (v, s.setSp (s.sp + 1))

/-! ## Interrupts: the queue, entry and return -/

/-- `Enqueue(m)`: a queue of 256 is allowed, the 257th message sets the machine on fire (60_exceptions.md R275;
log 9). -/
def enqueue (m : Word) (s : State) : Result :=
  if s.queue.length < Config.queueLimit then .next (s.setQueue (s.queue ++ [m])) else .fault .onFire

/-- The pushes of interrupt entry: RM once SRT has been called, then PC, then A (R281). -/
def pushFrame (s : State) : Attempt State := do
  let s ← if s.srtCalled then push s.rm s else pure s
  let s ← push s.pc s
  push (s.reg .a) s

/-- What entry changes after its pushes (R281). -/
def State.jumpToHandler (s : State) (m : Word) : State :=
  let t := (s.setPc s.ia).setReg .a m
  if t.srtCalled then t.setRm 0 else t

/-- Interrupt entry (R281): queueing on, the frame pushed under the ring mode in force, PC <- IA, A <- message, and
RM <- 0 once SRT has been called. A denied push is the model fault `DoubleFault` (R282). -/
def enterInterrupt (m : Word) (s : State) : Result :=
  match pushFrame (s.setIq true) with
  | .ok t => .next (t.jumpToHandler m)
  | .error _ => .fault .doubleFault

/-- `Deliver(m)`: "If IA is set to 0, a triggered interrupt does nothing" (R278). -/
def deliver (m : Word) (s : State) : Result :=
  if s.ia = 0 then .next s else enterInterrupt m s

/-- `TriggerSoft(m)`, for INT and for GPFs (R277). -/
def triggerSoft (m : Word) (s : State) : Result :=
  if s.iq then enqueue m s else deliver m s

/-- Return from interrupt, the inverse of entry (47_interrupt_instr.md R236). -/
def returnFromInterrupt (s : State) : Attempt State := do
  let (a, s) ← pop (s.setIq false)
  let (p, s) ← pop (s.setReg .a a)
  let s := s.setPc p
  if s.srtCalled then
    let (r, s) ← pop s
    return s.setRm r
  else return s

/-- Raise a GPF in the instruction that starts in state `s`, cycles aside: it is abandoned with no effect of its own, pc
is left at `resume`, and the interrupt with message gdt_msg OR code is triggered (60_exceptions.md R292, R294). -/
def raiseGpf (g : Gpf) (resume : Word) (s : State) : Result :=
  triggerSoft (s.gdtMsg ||| g.code) (s.setPc resume).addUnstatedCycles

/-- The outcome of an instruction of `len` words that starts in state `s`, from what its attempt gives: a denial
abandons it (R292), with the cycles spent by then. -/
def settle (len : Nat) (s : State) : Attempt Result → Result
  | .ok r => r
  | .error d => raiseGpf d.gpf (d.resume.getD (s.pc + BitVec.ofNat 16 len)) (s.setCycles d.cycles)

/-- A privileged instruction of `len` words: in user mode GPFINS before its operand is evaluated (R286, R291); the check
of its first word is paid. -/
def kernelOnly (len : Nat) (s : State) (body : Result) : Result :=
  if s.userMode then raiseGpf .ins (s.pc + BitVec.ofNat 16 len) s.consult else body

/-- The instruction is complete and has taken `cost` cycles beside those of its operands (R341). -/
def complete (cost : Nat) (s : State) : Result := .next (s.addCycles cost)

/-- Go on with the next state, if there is one. -/
def andThen (r : Result) (f : State → Result) : Result :=
  match r with
  | .next s => f s
  | .fault e => .fault e
  | .refused e => .refused e

end Sys2Proof.Machine
end

