-- ==== Sys2Proof/Machine/Devices.lean ====
section
/-! DEFINITION. The hardware devices: what HWN, HWQ and HWI see of them (spec/48_hardware_instr.md) and what they do
on their own (spec/60_exceptions.md R300 to R306). -/

namespace Sys2Proof.Machine

/-- A device's change of the machine: raw, never checked, not through mb (60_exceptions.md R305). -/
def State.deviceWrite (s : State) : DeviceWrite → State
  | .reg r v => s.setReg r v
  | .pc v => s.setPc v
  | .sp v => s.setSp v
  | .ex v => s.setEx v
  | .mem k addr v => s.setBank k addr v

/-- Whether a device may make the change: "any word of bank 0 (other banks only if its own documentation says so)"
(R303). -/
def DeviceInfo.mayWrite (d : DeviceInfo) : DeviceWrite → Bool
  | .mem k _ _ => k == 0 || d.otherBanks
  | .reg _ _ => true
  | .pc _ => true
  | .sp _ => true
  | .ex _ => true

/-- The changes of one device, in order; one that R303 forbids is no device behaviour (log 5). -/
def deviceWrites (d : DeviceInfo) : List DeviceWrite → State → Result
  | [], s => .next s
  | w :: rest, s => if d.mayWrite w then deviceWrites d rest (s.deviceWrite w) else .refused .invalidDevice

/-- One act of a device in phase A: an interrupt enters the queue whatever iq and IA are (R276, R304), a change needs
at least one HWI before it (R303). -/
def deviceEvent (e : DeviceEvent) (s : State) : Result :=
  match e with
  | .interrupt dev msg => if dev < s.devices.length then enqueue msg s else .refused .invalidDevice
  | .write dev w =>
    match s.devices[dev]? with
    | some d => if d.hwiSeen then deviceWrites d.info [w] s else .refused .invalidDevice
    | none => .refused .invalidDevice

/-- Acts of devices, in order. -/
def deviceEvents : List DeviceEvent → State → Result
  | [], s => .next s
  | e :: rest, s => andThen (deviceEvent e s) (deviceEvents rest)

/-- Phase A of a step (R270): the devices act as the next list of `deviceEvents` says; nothing when it is used up
(log 4). An interrupt raised here can be delivered by phase B of this very step (R270 against the prose of R276, log
26). -/
def devicePhase (s : State) : Result :=
  deviceEvents (s.deviceEvents.headD []) (s.setDeviceEvents s.deviceEvents.tail)

/-- The number of connected devices (48_hardware_instr.md R246). -/
def State.deviceCount (s : State) : Word := BitVec.ofNat 16 s.devices.length

/-- Write the five registers of HWQ (R247). -/
def State.setHwqRegs (s : State) (a b c x y : Word) : State :=
  ((((s.setReg .a a).setReg .b b).setReg .c c).setReg .x x).setReg .y y

/-- Information about device `va`; five free values when there is no such device (R247, log 6). -/
def queryDevice (va : Word) (s : State) : State :=
  match s.devices[va.toNat]? with
  | some d =>
    s.setHwqRegs (d.info.id.extractLsb' 0 16) (d.info.id.extractLsb' 16 16) d.info.version
      (d.info.manufacturer.extractLsb' 0 16) (d.info.manufacturer.extractLsb' 16 16)
  | none =>
    (s.setHwqRegs (Config.absentDeviceWord s.freeCount) (Config.absentDeviceWord (s.freeCount + 1))
      (Config.absentDeviceWord (s.freeCount + 2)) (Config.absentDeviceWord (s.freeCount + 3))
      (Config.absentDeviceWord (s.freeCount + 4))).drawFree 5

/-- `hwi_seen[va] <- true` (R248). -/
def State.markHwi (s : State) (n : Nat) : State :=
  s.setDevices (s.devices.modify n (fun d => { d with hwiSeen := true }))

/-- What the addressed device does on this HWI: the head of `hwiAnswers`; nothing when it is used up (log 4). -/
def State.hwiAnswer (s : State) : HwiAnswer := s.hwiAnswers.headD { extraCycles := 0, writes := [] }

/-- Send an interrupt to device `va` (R248): its action is part of the instruction, made after pc has moved past it.
No device of that number is the model fault `NoSuchDevice`. -/
def sendHwi (va : Word) (s : State) : Result :=
  match s.devices[va.toNat]? with
  | some d =>
    deviceWrites d.info s.hwiAnswer.writes
      (((s.markHwi va.toNat).setHwiAnswers s.hwiAnswers.tail).addCycles (4 + s.hwiAnswer.extraCycles))
  | none => .fault .noSuchDevice

end Sys2Proof.Machine
end

