-- ==== Sys2Proof/Machine/Operands.lean ====
section
/-! DEFINITION. Operand values: locations, evaluation, reading and writing (spec/40_operands.md), and the order of
events inside one instruction (R131), once for every shape of instruction. -/

namespace Sys2Proof.Machine

/-- What evaluating an operand yields (R130). -/
inductive Loc where
  | reg (r : Reg)
  | mem (addr : Word)
  | sp
  | pc
  | ex
  | lit (v : Word)
  deriving DecidableEq, Repr

/-! ## Evaluation -/

/-- The location of a value that both fields have (R132 to R134, R137 to R145); sums wrap. -/
def Operand.loc (o : Operand) (s : State) : Loc :=
  match o with
  | .reg r => .reg r
  | .ind r => .mem (s.reg r)
  | .indOff r n => .mem (s.reg r + n)
  | .peek => .mem s.sp
  | .pick n => .mem (s.sp + n)
  | .sp => .sp
  | .pc => .pc
  | .ex => .ex
  | .abs n => .mem n
  | .lit n => .lit n

/-- The location an a operand names (R135, R146). -/
def AOperand.loc (a : AOperand) (s : State) : Loc :=
  match a with
  | .op o => Operand.loc o s
  | .pop => .mem s.sp
  | .short v => .lit v

/-- The location a b operand names (R136). -/
def BOperand.loc (b : BOperand) (s : State) : Loc :=
  match b with
  | .op o => Operand.loc o s
  | .push => .mem (s.sp - 1)

/-- The stack pointer after evaluating an a operand: POP adds one (R135). -/
def AOperand.spAfter (a : AOperand) (s : State) : Word :=
  match a with
  | .pop => s.sp + 1
  | .op _ => s.sp
  | .short _ => s.sp

/-- The stack pointer after evaluating a b operand: PUSH takes one away (R136). -/
def BOperand.spAfter (b : BOperand) (s : State) : Word :=
  match b with
  | .push => s.sp - 1
  | .op _ => s.sp

/-- Pass the next word an operand uses, if it uses one. -/
def passOperandWord (n : Option Word) (s : State) : Attempt State :=
  match n with
  | some _ => passNextWord s
  | none => .ok s

/-- `EvalA(f)` (R130). -/
def evalA (a : AOperand) (s : State) : Attempt (Loc × State) := do
  let t ← passOperandWord a.nextWord s
  return (AOperand.loc a s, t.setSp (AOperand.spAfter a s))

/-- `EvalB(f)` (R130). -/
def evalB (b : BOperand) (s : State) : Attempt (Loc × State) := do
  let t ← passOperandWord b.nextWord s
  return (BOperand.loc b s, t.setSp (BOperand.spAfter b s))

/-! ## Reading and writing a location -/

/-- What a location holds. -/
def State.valueAt (s : State) : Loc → Word
  | .reg r => s.reg r
  | .mem addr => s.bank s.mb addr
  | .sp => s.sp
  | .pc => s.pc
  | .ex => s.ex
  | .lit v => v

/-- `ReadOp(loc)`: a word of memory is checked for 'read' (R147). -/
def readOp (l : Loc) (s : State) : Attempt (Word × State) :=
  match l with
  | .mem addr => memRead addr s
  | .reg _ => .ok (s.valueAt l, s)
  | .sp => .ok (s.valueAt l, s)
  | .pc => .ok (s.valueAt l, s)
  | .ex => .ok (s.valueAt l, s)
  | .lit _ => .ok (s.valueAt l, s)

/-- Let a location hold `v`; "Attempting to write to a literal value fails silently" (R148). -/
def State.store (s : State) (l : Loc) (v : Word) : State :=
  match l with
  | .reg r => s.setReg r v
  | .mem addr => s.setBank s.mb addr v
  | .sp => s.setSp v
  | .pc => s.setPc v
  | .ex => s.setEx v
  | .lit _ => s

/-- `WriteOp(loc, v)`: a word of memory is checked for 'write' (R148). -/
def writeOp (l : Loc) (v : Word) (s : State) : Attempt State :=
  match l with
  | .mem addr => memWrite addr v s
  | .reg _ => .ok (s.store l v)
  | .sp => .ok (s.store l v)
  | .pc => .ok (s.store l v)
  | .ex => .ok (s.store l v)
  | .lit _ => .ok (s.store l v)

/-! ## The shapes of instructions -/

/-- Words of a basic instruction (30_encoding.md R103). -/
def basicLength (b : BOperand) (a : AOperand) : Nat := 1 + a.words + b.words

/-- Words of a special instruction (R103). -/
def specialLength (a : AOperand) : Nat := 1 + a.words

/-- Steps 1 to 4 of R131: past the first word, evaluate a and read it. -/
def readSource (a : AOperand) (s : State) : Attempt (Word × State) := do
  let (la, s) ← evalA a s.pastFirstWord
  readOp la s

/-- Steps 1 to 5 of R131: a is evaluated and read, then b is evaluated. -/
def readOperands (b : BOperand) (a : AOperand) (s : State) : Attempt (Word × Loc × State) := do
  let (va, s) ← readSource a s
  let (lb, s) ← evalB b s
  return (va, lb, s)

/-- The side effect on EX comes after the result (41_move_arith.md R170). -/
def State.setExIf (s : State) : Option Word → State
  | some v => s.setEx v
  | none => s

/-- Basic instructions that read both operands and write b (R131, R150). `f` gives the result and the new EX, if the
instruction sets it, from EX, b's value and a's value. -/
def readModifyWrite (cost : Nat) (f : Word → Word → Word → Word × Option Word)
    (b : BOperand) (a : AOperand) (s : State) : Result :=
  settle (basicLength b a) s do
    let (va, lb, s) ← readOperands b a s
    let (vb, s) ← readOp lb s
    let s' ← writeOp lb (f s.ex vb va).1 s
    return complete cost (s'.setExIf (f s.ex vb va).2)

/-- Basic instructions that write a's value to b without reading b, then do `after` (R150). -/
def moveThen (cost : Nat) (after : State → State) (b : BOperand) (a : AOperand) (s : State) : Result :=
  settle (basicLength b a) s do
    let (va, lb, s) ← readOperands b a s
    let s ← writeOp lb va s
    return complete cost (after s)

/-- Special instructions that read a, then do `act` with its value (45_jsr.md R215). -/
def withValue (a : AOperand) (s : State) (act : Word → State → Attempt Result) : Result :=
  settle (specialLength a) s do
    let (va, s) ← readSource a s
    act va s

/-- Special instructions that set a to a value of the state, then do `after` (R215, 40_operands.md R151). -/
def setOperand (cost : Nat) (value : State → Word) (after : State → State) (a : AOperand) (s : State) : Result :=
  settle (specialLength a) s do
    let (la, s) ← evalA a s.pastFirstWord
    let s ← writeOp la (value s) s
    return complete cost (after s)

end Sys2Proof.Machine
end

