-- ==== Sys2Proof/Machine/Banks.lean ====
section
/-! DEFINITION. MBG MBO (spec/46_banks.md). -/

namespace Sys2Proof.Machine

/-- MBG a (R221): "sets a to MB", zero-extended. -/
def execMbg (a : AOperand) (s : State) : Result := setOperand 1 (fun t => t.mb.setWidth 16) id a s

/-- The first address of the block of MBO's operand: q << 9 (R222). -/
def mboBase (va : Word) : Word := va &&& 0xfe00

/-- The source bank of MBO's operand, bits 8 to 6 (R222). -/
def mboSource (va : Word) : BankNo := va.extractLsb' 6 3

/-- The destination bank of MBO's operand, bits 5 to 3 (R222). -/
def mboDest (va : Word) : BankNo := va.extractLsb' 3 3

/-- The bank MBO's operand selects, bits 2 to 0 (R222). -/
def mboSelect (va : Word) : BankNo := va.extractLsb' 0 3

/-- The copy of MBO: 512 words, and none "If s == d" (R222). -/
def mboCopy (va : Word) (m : Memory) : Memory :=
  if mboSource va = mboDest va then m else m.copy (mboSource va) (mboDest va) Config.blockWords (mboBase va)

/-- 1, 9, 65 or 73 cycles (70_reset_and_hazards.md R342). -/
def mboCycles (va : Word) (mb : BankNo) : Nat :=
  1 + (if mboSource va = mboDest va then 0 else 64) + (if mboSelect va = mb then 0 else 8)

/-- MBO a (R222): privileged; the operand is read in the old bank, then the bank is switched and the block copied. -/
def execMbo (a : AOperand) (s : State) : Result :=
  kernelOnly (specialLength a) s <|
    withValue a s fun va s =>
      .ok (complete (mboCycles va s.mb) ((s.setMb (mboSelect va)).setMem (mboCopy va s.mem)))

end Sys2Proof.Machine
end

