-- ==== Sys2Proof/Machine/Flags.lean ====
section
/-! DEFINITION. The arithmetic of the DCPU-16e: for each instruction the result for b and, where it sets EX, the new
EX (spec/41_move_arith.md, 42_logic_shift.md, 44_carry_loop.md). EX is the only flag-like register (10_state.md R27,
R28). Every function takes EX, b's value and a's value, in this order. Results are computed exactly and narrowed
last. -/

namespace Sys2Proof.Machine

/-- `signed(v)`, two's complement (00_scope.md R6). -/
def signed (v : Word) : Int := v.toInt

/-- `trunc16(n)` of an integer (R6). -/
def trunc16 (n : Int) : Word := BitVec.ofInt 16 n

/-- `trunc16(n)` of a natural number (R6). -/
def trunc16Nat (n : Nat) : Word := BitVec.ofNat 16 n

/-! ## Arithmetic -/

/-- ADD (41_move_arith.md R162). -/
def addOut (_ex vb va : Word) : Word × Option Word :=
  let t := vb.toNat + va.toNat
  (trunc16Nat t, some (if t > 0xffff then 0x0001 else 0x0000))

/-- SUB (R163). -/
def subOut (_ex vb va : Word) : Word × Option Word :=
  let t : Int := (vb.toNat : Int) - (va.toNat : Int)
  (trunc16 t, some (if t < 0 then 0xffff else 0x0000))

/-- MUL (R164). -/
def mulOut (_ex vb va : Word) : Word × Option Word :=
  let t := vb.toNat * va.toNat
  (trunc16Nat t, some (trunc16Nat (t >>> 16)))

/-- MLI (R165): the low and the high word of the product as a 32-bit two's complement number. -/
def mliOut (_ex vb va : Word) : Word × Option Word :=
  let t := signed vb * signed va
  (trunc16 t, some (trunc16 (t >>> (16 : Nat))))

/-- DIV (R166). -/
def divOut (_ex vb va : Word) : Word × Option Word :=
  if va = 0 then (0, some 0)
  else (trunc16Nat (vb.toNat / va.toNat), some (trunc16Nat (vb.toNat * 65536 / va.toNat)))

/-- DVI (R167): both quotients round towards zero. -/
def dviOut (_ex vb va : Word) : Word × Option Word :=
  if va = 0 then (0, some 0)
  else (trunc16 (Int.tdiv (signed vb) (signed va)), some (trunc16 (Int.tdiv (signed vb * 65536) (signed va))))

/-- MOD (R168); EX is not written. -/
def modOut (_ex vb va : Word) : Word × Option Word :=
  if va = 0 then (0, none) else (trunc16Nat (vb.toNat - va.toNat * (vb.toNat / va.toNat)), none)

/-- MDI (R169): the remainder has the sign of b; EX is not written. -/
def mdiOut (_ex vb va : Word) : Word × Option Word :=
  if va = 0 then (0, none) else (trunc16 (Int.tmod (signed vb) (signed va)), none)

/-! ## Logic and shifts -/

/-- AND (42_logic_shift.md R181). -/
def andOut (_ex vb va : Word) : Word × Option Word := (vb &&& va, none)

/-- BOR (R182). -/
def borOut (_ex vb va : Word) : Word × Option Word := (vb ||| va, none)

/-- XOR (R183). -/
def xorOut (_ex vb va : Word) : Word × Option Word := (vb ^^^ va, none)

/-- SHR (R184): floor(vb / 2^n) and floor(vb * 65536 / 2^n) over unbounded integers, n the whole value of a (R180). -/
def shrOut (_ex vb va : Word) : Word × Option Word :=
  (trunc16Nat (vb.toNat >>> va.toNat), some (trunc16Nat ((vb.toNat * 65536) >>> va.toNat)))

/-- ASR (R185): as SHR, with b taken as signed. -/
def asrOut (_ex vb va : Word) : Word × Option Word :=
  (trunc16 (signed vb >>> va.toNat), some (trunc16 ((signed vb * 65536) >>> va.toNat)))

/-- SHL (R186): the low and the next 16 bits of vb * 2^n. -/
def shlOut (_ex vb va : Word) : Word × Option Word :=
  let t := vb.toNat <<< va.toNat
  (trunc16Nat t, some (trunc16Nat (t >>> 16)))

/-! ## Carry arithmetic -/

/-- ADX (44_carry_loop.md R206): EX is 1 whenever the sum exceeds 0xffff. -/
def adxOut (ex vb va : Word) : Word × Option Word :=
  let t := vb.toNat + va.toNat + ex.toNat
  (trunc16Nat t, some (if t > 0xffff then 0x0001 else 0x0000))

/-- SBX (R207), EX read as unsigned (R205). -/
def sbxOut (ex vb va : Word) : Word × Option Word :=
  let t : Int := (vb.toNat : Int) - (va.toNat : Int) + (ex.toNat : Int)
  (trunc16 t, some (if t < 0 then 0xffff else if t > 0xffff then 0x0001 else 0x0000))

/-! ## Conditions, from b's value and a's value (43_conditionals.md) -/

/-- IFB (R191). -/
def ifbCond (vb va : Word) : Bool := (vb &&& va) != 0
/-- IFC (R192). -/
def ifcCond (vb va : Word) : Bool := (vb &&& va) == 0
/-- IFE (R193). -/
def ifeCond (vb va : Word) : Bool := vb == va
/-- IFN (R194). -/
def ifnCond (vb va : Word) : Bool := vb != va
/-- IFG, unsigned (R195). -/
def ifgCond (vb va : Word) : Bool := vb.toNat > va.toNat
/-- IFA, signed (R196). -/
def ifaCond (vb va : Word) : Bool := signed vb > signed va
/-- IFL, unsigned (R197). -/
def iflCond (vb va : Word) : Bool := vb.toNat < va.toNat
/-- IFU, signed (R198). -/
def ifuCond (vb va : Word) : Bool := signed vb < signed va

end Sys2Proof.Machine
end

