-- ==== Sys2Proof/Machine/CarryLoop.lean ====
section
/-! DEFINITION. ADX SBX STI STD (spec/44_carry_loop.md). -/

namespace Sys2Proof.Machine

/-- ADX b, a (R206): b + a + EX, EX the carry. -/
def execAdx (b : BOperand) (a : AOperand) (s : State) : Result := readModifyWrite 3 adxOut b a s

/-- SBX b, a (R207): b - a + EX, EX 0xffff on underflow and 1 on overflow. -/
def execSbx (b : BOperand) (a : AOperand) (s : State) : Result := readModifyWrite 3 sbxOut b a s

/-- I and J change by `d` (R209, R210). -/
def State.stepIJ (s : State) (d : Word) : State :=
  (s.setReg .i (s.reg .i + d)).setReg .j (s.reg .j + d)

/-- STI b, a (R209): "sets b to a, then increases I and J by 1". -/
def execSti (b : BOperand) (a : AOperand) (s : State) : Result := moveThen 2 (fun t => t.stepIJ 1) b a s

/-- STD b, a (R210): "sets b to a, then decreases I and J by 1". -/
def execStd (b : BOperand) (a : AOperand) (s : State) : Result := moveThen 2 (fun t => t.stepIJ (-1)) b a s

end Sys2Proof.Machine
end

