-- ==== Sys2Proof/Machine/Conditionals.lean ====
section
/-! DEFINITION. IFB IFC IFE IFN IFG IFA IFL IFU and skipping (spec/43_conditionals.md). -/

namespace Sys2Proof.Machine

/-- `Skip()` (R199), at most `fuel` instructions long: pass one instruction by its first word's length, and go on while
the one passed was a conditional. Each costs a cycle (70_reset_and_hazards.md R343). None: the chain was not over. -/
def skipChain : Nat → State → Attempt (Option State)
  | 0, _ => .ok none
  | fuel + 1, s => do
    let (w, t) ← skipFetch s
    let t := (t.setPc (s.pc + BitVec.ofNat 16 (wordLength w))).addCycles 1
    if isConditionalWord w then skipChain fuel t else return some t

/-- After as many conditionals as the bank has words the chain is back where it was, so it never ends (R204, log 8). -/
def skipLimit : Nat := Config.bankWords

/-- A failed test skips, a passed one does nothing more (R190); 2 cycles beside those of the chain (R343). -/
def decideSkip (holds : Bool) (s : State) : Attempt Result :=
  if holds then .ok (complete 2 s)
  else do
    match ← skipChain skipLimit s with
    | some t => return complete 2 t
    | none => return .fault .endlessSkip

/-- The shape of every conditional (R190): both operands are read, neither is written. -/
def conditional (cond : Word → Word → Bool) (b : BOperand) (a : AOperand) (s : State) : Result :=
  settle (basicLength b a) s do
    let (va, lb, s) ← readOperands b a s
    let (vb, s) ← readOp lb s
    decideSkip (cond vb va) s

/-- IFB b, a (R191): "performs next instruction only if (b&a)!=0". -/
def execIfb (b : BOperand) (a : AOperand) (s : State) : Result := conditional ifbCond b a s

/-- IFC b, a (R192): "performs next instruction only if (b&a)==0". -/
def execIfc (b : BOperand) (a : AOperand) (s : State) : Result := conditional ifcCond b a s

/-- IFE b, a (R193): "performs next instruction only if b==a". -/
def execIfe (b : BOperand) (a : AOperand) (s : State) : Result := conditional ifeCond b a s

/-- IFN b, a (R194): "performs next instruction only if b!=a". -/
def execIfn (b : BOperand) (a : AOperand) (s : State) : Result := conditional ifnCond b a s

/-- IFG b, a (R195): "performs next instruction only if b>a". -/
def execIfg (b : BOperand) (a : AOperand) (s : State) : Result := conditional ifgCond b a s

/-- IFA b, a (R196): "performs next instruction only if b>a (signed)". -/
def execIfa (b : BOperand) (a : AOperand) (s : State) : Result := conditional ifaCond b a s

/-- IFL b, a (R197): "performs next instruction only if b<a". -/
def execIfl (b : BOperand) (a : AOperand) (s : State) : Result := conditional iflCond b a s

/-- IFU b, a (R198): "performs next instruction only if b<a (signed)". -/
def execIfu (b : BOperand) (a : AOperand) (s : State) : Result := conditional ifuCond b a s

end Sys2Proof.Machine
end

