-- ==== Sys2Proof/Machine/ControlFlow.lean ====
section
/-! DEFINITION. JSR (spec/45_jsr.md). -/

namespace Sys2Proof.Machine

/-- JSR a (R216): "pushes the address of the next instruction to the stack, then sets PC to a"; the target is read
before the push. -/
def execJsr (a : AOperand) (s : State) : Result :=
  withValue a s fun va s => do
    let s ← push s.pc s
    return complete 3 (s.setPc va)

end Sys2Proof.Machine
end

