-- ==== Sys2Proof/Machine/Hardware.lean ====
section
/-! DEFINITION. HWN HWQ HWI (spec/48_hardware_instr.md). -/

namespace Sys2Proof.Machine

/-- HWN a (R246): privileged; "sets a to number of connected hardware devices". -/
def execHwn (a : AOperand) (s : State) : Result :=
  kernelOnly (specialLength a) s <| setOperand 2 State.deviceCount id a s

/-- HWQ a (R247): privileged; information about device a in A, B, C, X, Y. -/
def execHwq (a : AOperand) (s : State) : Result :=
  kernelOnly (specialLength a) s <|
    withValue a s fun va s => .ok (complete 4 (queryDevice va s))

/-- HWI a (R248): privileged; "sends an interrupt to hardware a". -/
def execHwi (a : AOperand) (s : State) : Result :=
  kernelOnly (specialLength a) s <|
    withValue a s fun va s => .ok (sendHwi va s)

end Sys2Proof.Machine
end

