-- ==== Sys2Proof/Machine/Interrupts.lean ====
section
/-! DEFINITION. INT IAG IAS RFI IAQ (spec/47_interrupt_instr.md). -/

namespace Sys2Proof.Machine

/-- INT a (R231): "triggers a software interrupt with message a". -/
def execInt (a : AOperand) (s : State) : Result :=
  withValue a s fun va s => .ok (triggerSoft va (s.addCycles 4))

/-- IAG a (R233): "sets a to IA". -/
def execIag (a : AOperand) (s : State) : Result := setOperand 1 State.ia id a s

/-- IAS a (R234): privileged; "sets IA to a". -/
def execIas (a : AOperand) (s : State) : Result :=
  kernelOnly (specialLength a) s <|
    withValue a s fun va s => .ok (complete 1 (s.setIa va))

/-- RFI a (R236): privileged; a is evaluated and read, its value is ignored, then the frame is popped. -/
def execRfi (a : AOperand) (s : State) : Result :=
  kernelOnly (specialLength a) s <|
    withValue a s fun _ s => do
      let s ← returnFromInterrupt s
      return complete 3 s

/-- IAQ a (R238): privileged; queueing on exactly if a is not zero. -/
def execIaq (a : AOperand) (s : State) : Result :=
  kernelOnly (specialLength a) s <|
    withValue a s fun va s => .ok (complete 2 (s.setIq (va != 0)))

end Sys2Proof.Machine
end

