-- ==== Sys2Proof/Machine/LogicShift.lean ====
section
/-! DEFINITION. AND BOR XOR SHR ASR SHL (spec/42_logic_shift.md). -/

namespace Sys2Proof.Machine

/-- AND b, a (R181): b AND a. -/
def execAnd (b : BOperand) (a : AOperand) (s : State) : Result := readModifyWrite 1 andOut b a s

/-- BOR b, a (R182): b OR a. -/
def execBor (b : BOperand) (a : AOperand) (s : State) : Result := readModifyWrite 1 borOut b a s

/-- XOR b, a (R183): b exclusive OR a. -/
def execXor (b : BOperand) (a : AOperand) (s : State) : Result := readModifyWrite 1 xorOut b a s

/-- SHR b, a (R184): logical right shift, EX the bits shifted out. -/
def execShr (b : BOperand) (a : AOperand) (s : State) : Result := readModifyWrite 1 shrOut b a s

/-- ASR b, a (R185): arithmetic right shift, EX the bits shifted out. -/
def execAsr (b : BOperand) (a : AOperand) (s : State) : Result := readModifyWrite 1 asrOut b a s

/-- SHL b, a (R186): left shift, EX the bits shifted out. -/
def execShl (b : BOperand) (a : AOperand) (s : State) : Result := readModifyWrite 1 shlOut b a s

end Sys2Proof.Machine
end

