-- ==== Sys2Proof/Machine/MoveArith.lean ====
section
/-! DEFINITION. SET ADD SUB MUL MLI DIV DVI MOD MDI (spec/41_move_arith.md); the cycle costs are those of
70_reset_and_hazards.md R341. -/

namespace Sys2Proof.Machine

/-- SET b, a (R161): "sets b to a". -/
def execSet (b : BOperand) (a : AOperand) (s : State) : Result := moveThen 1 id b a s

/-- ADD b, a (R162): b + a, EX the carry. -/
def execAdd (b : BOperand) (a : AOperand) (s : State) : Result := readModifyWrite 2 addOut b a s

/-- SUB b, a (R163): b - a, EX 0xffff on a borrow. -/
def execSub (b : BOperand) (a : AOperand) (s : State) : Result := readModifyWrite 2 subOut b a s

/-- MUL b, a (R164): unsigned product, EX its high word. -/
def execMul (b : BOperand) (a : AOperand) (s : State) : Result := readModifyWrite 2 mulOut b a s

/-- MLI b, a (R165): signed product, EX its high word. -/
def execMli (b : BOperand) (a : AOperand) (s : State) : Result := readModifyWrite 2 mliOut b a s

/-- DIV b, a (R166): unsigned quotient, EX its first 16 fractional bits. -/
def execDiv (b : BOperand) (a : AOperand) (s : State) : Result := readModifyWrite 3 divOut b a s

/-- DVI b, a (R167): signed quotient towards zero, EX likewise. -/
def execDvi (b : BOperand) (a : AOperand) (s : State) : Result := readModifyWrite 3 dviOut b a s

/-- MOD b, a (R168): unsigned remainder. -/
def execMod (b : BOperand) (a : AOperand) (s : State) : Result := readModifyWrite 3 modOut b a s

/-- MDI b, a (R169): signed remainder with the sign of b. -/
def execMdi (b : BOperand) (a : AOperand) (s : State) : Result := readModifyWrite 3 mdiOut b a s

end Sys2Proof.Machine
end

