-- ==== Sys2Proof/Machine/Protection.lean ====
section
/-! DEFINITION. Compiling the descriptor tables (spec/20_memory.md R71 to R76), which SRT alone does. -/

namespace Sys2Proof.Machine

/-- The start page s of a descriptor entry, bits 15 to 8 (R74). -/
def entryStart (e : Word) : Nat := (e.extractLsb' 8 8).toNat

/-- The length l of a descriptor entry in pages, bits 7 to 3 (R74). -/
def entryPages (e : Word) : Nat := (e.extractLsb' 3 5).toNat

/-- The access flags rwe of a descriptor entry, bits 2 to 0 (R74). -/
def entryFlags (e : Word) : Flags := e.extractLsb' 0 3

/-- The pages an entry covers: s to s + l - 1, cut off after page 255 (R75). -/
def entryCovers (e : Word) : List Nat :=
  ((List.range (entryPages e)).map (fun n => entryStart e + n)).filter (fun p => p < Config.pages)

/-- The words of a table: `n` entries in bank `k` from `addr` on, addresses wrapping (R71, R73). -/
def tableEntries (m : Memory) (k : BankNo) (addr : Word) (n : Nat) : List Word :=
  (List.range n).map (fun i => m.word k (addr + BitVec.ofNat 16 i))

/-- The entries of the GDT at `g` in bank 0 (R71). -/
def gdtEntries (m : Memory) (g : Word) : List Word :=
  tableEntries m 0 (g + 4) (m.word 0 (g + 3)).toNat

/-- The entries of the LDT of bank `k`: the word at `l` of bank `k` points to it, and 0xFFFF for `l` means that no
bank has one (R72, R73). -/
def ldtEntries (m : Memory) (l : Word) (k : BankNo) : List Word :=
  if l = 0xffff then []
  else tableEntries m k (m.word k l + 1) (m.word k (m.word k l)).toNat

/-- Add an entry's flags to every page it covers in bank `k` (R76). -/
def grantEntry (k : BankNo) (t : PermTable) (e : Word) : PermTable :=
  (entryCovers e).foldl (fun t p => t.grant k p (entryFlags e)) t

/-- One bank's compiled table: the GDT and the bank's LDT, entries combined by OR (R76). -/
def grantBank (m : Memory) (g : Word) (t : PermTable) (k : BankNo) : PermTable :=
  (gdtEntries m g ++ ldtEntries m (m.word 0 (g + 2)) k).foldl (grantEntry k) t

/-- The compiled tables of all eight banks, whatever was compiled before (R76). -/
def compiledTable (m : Memory) (g : Word) : PermTable :=
  ([0, 1, 2, 3, 4, 5, 6, 7] : List BankNo).foldl (grantBank m g) []

/-- `CompileTables(g)` (R76, 49_ring_instr.md R259): all reads are raw. -/
def compileTables (g : Word) (s : State) : State :=
  s.setTables (s.bank 0 g) (compiledTable s.mem g)

end Sys2Proof.Machine
end

