-- ==== Sys2Proof/Machine/Ring.lean ====
section
/-! DEFINITION. GRM DRM SRT (spec/49_ring_instr.md). -/

namespace Sys2Proof.Machine

/-- GRM a (R256): "Set a to RM", the whole 16 bits. -/
def execGrm (a : AOperand) (s : State) : Result := setOperand 2 State.rm id a s

/-- DRM a (R257): "Set a to RM. Then set RM to 1."; the write of a is checked under the old RM. -/
def execDrm (a : AOperand) (s : State) : Result := setOperand 2 State.rm (fun t => t.setRm 1) a s

/-- SRT a (R258): privileged; compile the tables of the GDT at address a of bank 0. -/
def execSrt (a : AOperand) (s : State) : Result :=
  kernelOnly (specialLength a) s <|
    withValue a s fun va s => .ok (complete 4 (compileTables va s))

end Sys2Proof.Machine
end

