-- ==== Sys2Proof/Machine/Unassigned.lean ====
section
/-! DEFINITION. The unassigned and reserved opcodes (spec/30_encoding.md R108, R109): a definition for each row of the
table. -/

namespace Sys2Proof.Machine

/-- Executing an opcode the source gives no meaning, in either ring mode: no state follows (R108, R109). -/
def undefinedOpcode (_s : State) : Result := .fault .undefinedInstruction

/-- Basic opcode 0x18, "-" in the source's table (R108). -/
def execBasic18 (_b : BOperand) (_a : AOperand) (s : State) : Result := undefinedOpcode s

/-- Basic opcode 0x19, "-" in the source's table (R108). -/
def execBasic19 (_b : BOperand) (_a : AOperand) (s : State) : Result := undefinedOpcode s

/-- Basic opcode 0x1c, "-" in the source's table (R108). -/
def execBasic1c (_b : BOperand) (_a : AOperand) (s : State) : Result := undefinedOpcode s

/-- Basic opcode 0x1d, "-" in the source's table (R108). -/
def execBasic1d (_b : BOperand) (_a : AOperand) (s : State) : Result := undefinedOpcode s

/-- Special opcode 0x00, "reserved for future expansion" (R109). -/
def execSpecial00 (_a : AOperand) (s : State) : Result := undefinedOpcode s

/-- Special opcode 0x02, "-" in the source's table (R109). -/
def execSpecial02 (_a : AOperand) (s : State) : Result := undefinedOpcode s

/-- Special opcode 0x03, "-" in the source's table (R109). -/
def execSpecial03 (_a : AOperand) (s : State) : Result := undefinedOpcode s

/-- Special opcode 0x04, "-" in the source's table (R109). -/
def execSpecial04 (_a : AOperand) (s : State) : Result := undefinedOpcode s

/-- Special opcode 0x07, "-" in the source's table (R109). -/
def execSpecial07 (_a : AOperand) (s : State) : Result := undefinedOpcode s

/-- Special opcode 0x0d, "-" in the source's table (R109). -/
def execSpecial0d (_a : AOperand) (s : State) : Result := undefinedOpcode s

/-- Special opcode 0x0e, "-" in the source's table (R109). -/
def execSpecial0e (_a : AOperand) (s : State) : Result := undefinedOpcode s

/-- Special opcode 0x0f, "-" in the source's table (R109). -/
def execSpecial0f (_a : AOperand) (s : State) : Result := undefinedOpcode s

/-- Special opcode 0x13, "-" in the source's table (R109). -/
def execSpecial13 (_a : AOperand) (s : State) : Result := undefinedOpcode s

/-- Special opcode 0x14, "-" in the source's table (R109). -/
def execSpecial14 (_a : AOperand) (s : State) : Result := undefinedOpcode s

/-- Special opcode 0x15, "-" in the source's table (R109). -/
def execSpecial15 (_a : AOperand) (s : State) : Result := undefinedOpcode s

/-- Special opcode 0x19, "-" in the source's table (R109). -/
def execSpecial19 (_a : AOperand) (s : State) : Result := undefinedOpcode s

/-- Special opcode 0x1a, "-" in the source's table (R109). -/
def execSpecial1a (_a : AOperand) (s : State) : Result := undefinedOpcode s

/-- Special opcode 0x1b, "-" in the source's table (R109). -/
def execSpecial1b (_a : AOperand) (s : State) : Result := undefinedOpcode s

/-- Special opcode 0x1c, "-" in the source's table (R109). -/
def execSpecial1c (_a : AOperand) (s : State) : Result := undefinedOpcode s

/-- Special opcode 0x1d, "-" in the source's table (R109). -/
def execSpecial1d (_a : AOperand) (s : State) : Result := undefinedOpcode s

/-- Special opcode 0x1e, "-" in the source's table (R109). -/
def execSpecial1e (_a : AOperand) (s : State) : Result := undefinedOpcode s

/-- Special opcode 0x1f, "-" in the source's table (R109). -/
def execSpecial1f (_a : AOperand) (s : State) : Result := undefinedOpcode s

end Sys2Proof.Machine
end

