-- ==== Sys2Proof/Machine/Dispatch.lean ====
section
/-! DEFINITION. What an instruction does to the state in which pc is at its first word, that word having been fetched:
one arm for every row of spec/opcode_table.json. -/

namespace Sys2Proof.Machine

def exec (i : Instr) (s : State) : Host.Outcome State Fault Refusal :=
  match i with
  | .set b a => Sys2Proof.Machine.execSet b a s
  | .add b a => Sys2Proof.Machine.execAdd b a s
  | .sub b a => Sys2Proof.Machine.execSub b a s
  | .mul b a => Sys2Proof.Machine.execMul b a s
  | .mli b a => Sys2Proof.Machine.execMli b a s
  | .div b a => Sys2Proof.Machine.execDiv b a s
  | .dvi b a => Sys2Proof.Machine.execDvi b a s
  | .mod b a => Sys2Proof.Machine.execMod b a s
  | .mdi b a => Sys2Proof.Machine.execMdi b a s
  | .and b a => Sys2Proof.Machine.execAnd b a s
  | .bor b a => Sys2Proof.Machine.execBor b a s
  | .xor b a => Sys2Proof.Machine.execXor b a s
  | .shr b a => Sys2Proof.Machine.execShr b a s
  | .asr b a => Sys2Proof.Machine.execAsr b a s
  | .shl b a => Sys2Proof.Machine.execShl b a s
  | .ifb b a => Sys2Proof.Machine.execIfb b a s
  | .ifc b a => Sys2Proof.Machine.execIfc b a s
  | .ife b a => Sys2Proof.Machine.execIfe b a s
  | .ifn b a => Sys2Proof.Machine.execIfn b a s
  | .ifg b a => Sys2Proof.Machine.execIfg b a s
  | .ifa b a => Sys2Proof.Machine.execIfa b a s
  | .ifl b a => Sys2Proof.Machine.execIfl b a s
  | .ifu b a => Sys2Proof.Machine.execIfu b a s
  | .adx b a => Sys2Proof.Machine.execAdx b a s
  | .sbx b a => Sys2Proof.Machine.execSbx b a s
  | .sti b a => Sys2Proof.Machine.execSti b a s
  | .std b a => Sys2Proof.Machine.execStd b a s
  | .jsr a => Sys2Proof.Machine.execJsr a s
  | .mbg a => Sys2Proof.Machine.execMbg a s
  | .mbo a => Sys2Proof.Machine.execMbo a s
  | .int a => Sys2Proof.Machine.execInt a s
  | .iag a => Sys2Proof.Machine.execIag a s
  | .ias a => Sys2Proof.Machine.execIas a s
  | .rfi a => Sys2Proof.Machine.execRfi a s
  | .iaq a => Sys2Proof.Machine.execIaq a s
  | .hwn a => Sys2Proof.Machine.execHwn a s
  | .hwq a => Sys2Proof.Machine.execHwq a s
  | .hwi a => Sys2Proof.Machine.execHwi a s
  | .grm a => Sys2Proof.Machine.execGrm a s
  | .drm a => Sys2Proof.Machine.execDrm a s
  | .srt a => Sys2Proof.Machine.execSrt a s
  | .basic18 b a => Sys2Proof.Machine.execBasic18 b a s
  | .basic19 b a => Sys2Proof.Machine.execBasic19 b a s
  | .basic1c b a => Sys2Proof.Machine.execBasic1c b a s
  | .basic1d b a => Sys2Proof.Machine.execBasic1d b a s
  | .special00 a => Sys2Proof.Machine.execSpecial00 a s
  | .special02 a => Sys2Proof.Machine.execSpecial02 a s
  | .special03 a => Sys2Proof.Machine.execSpecial03 a s
  | .special04 a => Sys2Proof.Machine.execSpecial04 a s
  | .special07 a => Sys2Proof.Machine.execSpecial07 a s
  | .special0d a => Sys2Proof.Machine.execSpecial0d a s
  | .special0e a => Sys2Proof.Machine.execSpecial0e a s
  | .special0f a => Sys2Proof.Machine.execSpecial0f a s
  | .special13 a => Sys2Proof.Machine.execSpecial13 a s
  | .special14 a => Sys2Proof.Machine.execSpecial14 a s
  | .special15 a => Sys2Proof.Machine.execSpecial15 a s
  | .special19 a => Sys2Proof.Machine.execSpecial19 a s
  | .special1a a => Sys2Proof.Machine.execSpecial1a a s
  | .special1b a => Sys2Proof.Machine.execSpecial1b a s
  | .special1c a => Sys2Proof.Machine.execSpecial1c a s
  | .special1d a => Sys2Proof.Machine.execSpecial1d a s
  | .special1e a => Sys2Proof.Machine.execSpecial1e a s
  | .special1f a => Sys2Proof.Machine.execSpecial1f a s

end Sys2Proof.Machine
end

