-- ==== Sys2Proof/Machine/Cycle.lean ====
section
/-! DEFINITION. The parts of one step: the interrupt phase, and fetching the instruction (spec/60_exceptions.md R270,
spec/00_scope.md R11). -/

namespace Sys2Proof.Machine

/-- Phase B of a step (R270): while queueing is off the oldest message leaves the queue and is delivered, at most one
in a step. A message raised in phase A of the same step is taken too, as R270's pseudocode has it; R276's prose says "a
later step" (DESIGN CHOICE, log 26). The source gives no cycle cost for it (70_reset_and_hazards.md R344, log 7). -/
def interruptPhase (s : State) : Result :=
  if s.iq then .next s
  else
    match s.queue with
    | [] => .next s
    | m :: rest => deliver m (s.setQueue rest).addUnstatedCycles

/-- The three words at pc in the selected bank: as many as the longest instruction has. pc wraps (10_state.md R24). -/
def State.fetchWords (s : State) : List Word :=
  [s.bank s.mb s.pc, s.bank s.mb (s.pc + 1), s.bank s.mb (s.pc + 2)]

/-- The instruction at pc: the first word alone says how many of the following words belong to it (30_encoding.md R100).
This is what `decode` reads from `fetchWords`; reading a word has no effect (20_memory.md R68, log 15). -/
def State.instrAtPc (s : State) : Instr :=
  decodeWords (s.bank s.mb s.pc) (s.bank s.mb (s.pc + 1)) (s.bank s.mb (s.pc + 2))

/-- Phase C of a step (R270): the first word is checked for 'execute' and fetched (20_memory.md R79); a denial leaves
pc one past it (R292) and has cost its check. -/
def instructionPhase (s : State) : Result :=
  if s.permits .execute s.pc then exec s.instrAtPc s else raiseGpf .mem (s.pc + 1) s.consult

/-- Store the words of a list at consecutive addresses of the selected bank. -/
def State.putWords (s : State) (addr : Word) : List Word → State
  | [] => s
  | w :: rest => State.putWords (s.setBank s.mb addr w) (addr + 1) rest

end Sys2Proof.Machine
end

