-- ==== Sys2Proof/Machine/Step.lean ====
section
/-! DEFINITION. One step of the machine (spec/60_exceptions.md R270). -/

namespace Sys2Proof.Machine

/-- One step: devices, then at most one interrupt, then one instruction; a machine on fire has none (R270, R279). DESIGN
CHOICE: phase B may deliver an interrupt that a device raised in phase A of this same step, as R270's pseudocode says, where
R276's prose says "phase B of a later step" (log 26). -/
def step (s : State) : Host.Outcome State Fault Refusal :=
  if s.onFire then .fault .onFire
  else andThen (devicePhase s) fun t => andThen (interruptPhase t) instructionPhase

/-- `s` with an instruction, given by its bits in the numbering of spec/opcode_table.json, stored where the next step
fetches: at pc in the selected bank, three words long. It stands for loading a program from outside (log 12). The next
step runs it when no device event and no waiting interrupt comes first, as after reset. -/
def State.withFetchWord (s : State) (nbits w : Nat) : State := s.putWords s.pc (tableWords nbits w)

end Sys2Proof.Machine
end

