-- ==== Sys2Proof/Safety.lean ====
section
/-! DEFINITION. What counts as a sound state, which accesses an instruction makes and when they are allowed, and where
its operands lie: the terms the statements use. Nothing of the machine is defined from them. -/

namespace Sys2Proof.Machine

/-- What every reachable state satisfies: memory and compiled tables in canonical form, at most 256 interrupts in the
queue (10_state.md R35), not on fire (R39), at most 65535 devices (48_hardware_instr.md R245). -/
structure State.Inv (s : State) : Prop where
  mem_wf : s.mem.wf
  perm_wf : s.perm.wf
  queue_le : s.queue.length ≤ Config.queueLimit
  not_on_fire : s.onFire = false
  devices_le : s.devices.length ≤ Config.deviceLimit

/-- No device acts and no interrupt is delivered before the instruction of the next step. -/
def State.Quiet (s : State) : Prop :=
  s.onFire = false ∧ s.deviceEvents = [] ∧ (s.iq = true ∨ s.queue = [])

/-! ## Operands, from the state in which the instruction starts (40_operands.md R131) -/

/-- The state once the first word and a are evaluated: only pc and SP have moved (cycles aside). -/
def State.afterA (s : State) (a : AOperand) : State :=
  (s.setPc (s.pc + 1 + BitVec.ofNat 16 a.words)).setSp (AOperand.spAfter a s)

/-- The state once b is evaluated too. -/
def State.afterAB (s : State) (b : BOperand) (a : AOperand) : State :=
  ((s.afterA a).setPc (s.pc + 1 + BitVec.ofNat 16 (a.words + b.words))).setSp (BOperand.spAfter b (s.afterA a))

/-- a's location. -/
def State.locA (s : State) (a : AOperand) : Loc := AOperand.loc a s

/-- a's value, read once a is evaluated and before b is. -/
def State.valueA (s : State) (a : AOperand) : Word := (s.afterA a).valueAt (s.locA a)

/-- b's location: its registers and SP are read once a is evaluated. -/
def State.locB (s : State) (b : BOperand) (a : AOperand) : Loc := BOperand.loc b (s.afterA a)

/-- b's value, read once b is evaluated. -/
def State.valueB (s : State) (b : BOperand) (a : AOperand) : Word := (s.afterAB b a).valueAt (s.locB b a)

/-! ## Allowed accesses: always in kernel mode, by the compiled table in user mode (20_memory.md R70) -/

/-- An operand access is allowed; only words of memory are checked (R82). -/
def State.allows (s : State) (x : Access) : Loc → Bool
  | .mem addr => s.permits x addr
  | .reg _ => true
  | .sp => true
  | .pc => true
  | .ex => true
  | .lit _ => true

/-- The next words of the instruction may be fetched (R79): at most two follow the first word. -/
def State.allowsWords (s : State) (n : Nat) : Bool :=
  (n == 0 || s.permits .execute (s.pc + 1)) && (n ≤ 1 || s.permits .execute (s.pc + 2))

/-- Every access of a basic instruction that reads a, reads b and writes b (40_operands.md R150). -/
def State.allowsReadModifyWrite (s : State) (b : BOperand) (a : AOperand) : Bool :=
  s.allowsWords (a.words + b.words) && s.allows .read (s.locA a) && s.allows .read (s.locB b a) &&
    s.allows .write (s.locB b a)

/-- Every access of SET, STI and STD: b is written and not read (R150). -/
def State.allowsMove (s : State) (b : BOperand) (a : AOperand) : Bool :=
  s.allowsWords (a.words + b.words) && s.allows .read (s.locA a) && s.allows .write (s.locB b a)

/-- Every operand access of a conditional instruction: both are read (R150). -/
def State.allowsCompare (s : State) (b : BOperand) (a : AOperand) : Bool :=
  s.allowsWords (a.words + b.words) && s.allows .read (s.locA a) && s.allows .read (s.locB b a)

/-- Every operand access of a special instruction that reads a (R150). -/
def State.allowsSource (s : State) (a : AOperand) : Bool :=
  s.allowsWords a.words && s.allows .read (s.locA a)

/-- Every operand access of a special instruction that sets a (R150, R151). -/
def State.allowsTarget (s : State) (a : AOperand) : Bool :=
  s.allowsWords a.words && s.allows .write (s.locA a)

/-- Checked accesses to a location: one for a word of memory. -/
def Loc.accesses : Loc → Nat
  | .mem _ => 1
  | .reg _ => 0
  | .sp => 0
  | .pc => 0
  | .ex => 0
  | .lit _ => 0

/-- Cycles of `n` checked accesses: one each in user mode, none in kernel mode (70_reset_and_hazards.md R344). -/
def State.checkCycles (s : State) (n : Nat) : Nat := if s.userMode then n else 0

/-! ## The frame of interrupt entry (60_exceptions.md R281) -/

/-- Words entry pushes: RM, PC and A once SRT has been called, else PC and A. -/
def State.frameWords (s : State) : Nat := if s.srtCalled then 3 else 2

/-- Memory after the pushes of entry. -/
def State.frameMem (s : State) : Memory :=
  if s.srtCalled then
    ((s.mem.setWord s.mb (s.sp - 1) s.rm).setWord s.mb (s.sp - 2) s.pc).setWord s.mb (s.sp - 3) (s.reg .a)
  else (s.mem.setWord s.mb (s.sp - 1) s.pc).setWord s.mb (s.sp - 2) (s.reg .a)

/-- Every push of entry is allowed (R282). -/
def State.allowsFrame (s : State) : Bool :=
  s.permits .write (s.sp - 1) && s.permits .write (s.sp - 2) && (!s.srtCalled || s.permits .write (s.sp - 3))

/-- The state entry leads to, cycles aside: queueing on, the frame pushed, PC at IA, the message in A, and kernel mode
once SRT has been called. -/
def State.entered (s : State) (m : Word) : State :=
  ((((s.setIq true).setMem s.frameMem).setSp (s.sp - BitVec.ofNat 16 s.frameWords)).setPc s.ia).setReg .a m
    |>.setRm (if s.srtCalled then 0 else s.rm)

/-! ## What an instruction leaves unchanged -/

/-- Every control register and every hidden field is as before: all of the state but the general registers, PC, SP, EX,
memory and the cycle counter. -/
structure State.SameSystem (s t : State) : Prop where
  ia : t.ia = s.ia
  mb : t.mb = s.mb
  rm : t.rm = s.rm
  iq : t.iq = s.iq
  queue : t.queue = s.queue
  srtCalled : t.srtCalled = s.srtCalled
  perm : t.perm = s.perm
  gdtMsg : t.gdtMsg = s.gdtMsg
  onFire : t.onFire = s.onFire
  devices : t.devices = s.devices
  deviceEvents : t.deviceEvents = s.deviceEvents
  hwiAnswers : t.hwiAnswers = s.hwiAnswers
  freeCount : t.freeCount = s.freeCount

/-- From `s` an instruction leaves `t`, cycles aside: pc and SP have moved to `pc` and `sp`, then location `l` of the
selected bank has been given `v`, then EX has been given `ex`, if anything. Nothing else has changed: every other
register, every other word of every bank and all of the system state. A literal `l` means that nothing is written. -/
structure State.Leaves (s t : State) (pc sp : Word) (l : Loc) (v : Word) (ex : Option Word) : Prop where
  regs : ∀ r, t.reg r = if l = .reg r then v else s.reg r
  pc_eq : t.pc = if l = .pc then v else pc
  sp_eq : t.sp = if l = .sp then v else sp
  ex_eq : t.ex = ex.getD (if l = .ex then v else s.ex)
  mem : ∀ k w, t.bank k w = if k = s.mb ∧ l = .mem w then v else s.bank k w
  system : s.SameSystem t

/-- The address after an instruction with operand a. -/
def State.pcAfterA (s : State) (a : AOperand) : Word := s.pc + BitVec.ofNat 16 (1 + a.words)

/-- The address after an instruction with operands b and a. -/
def State.pcAfterAB (s : State) (b : BOperand) (a : AOperand) : Word := s.pc + BitVec.ofNat 16 (1 + a.words + b.words)

/-- SP after operand a: one up for POP (40_operands.md R135). -/
def State.spAfterA (s : State) (a : AOperand) : Word := if a = .pop then s.sp + 1 else s.sp

/-- SP after operands a and b: one down again for PUSH (R136). -/
def State.spAfterAB (s : State) (b : BOperand) (a : AOperand) : Word :=
  if b = .push then s.spAfterA a - 1 else s.spAfterA a

/-- A basic instruction with operands b and a that sets b to `v` and EX to `ex`, if anything. -/
def State.SetsB (s t : State) (b : BOperand) (a : AOperand) (v : Word) (ex : Option Word) : Prop :=
  s.Leaves t (s.pcAfterAB b a) (s.spAfterAB b a) (s.locB b a) v ex

/-- A special instruction that sets a to `v`. -/
def State.SetsA (s t : State) (a : AOperand) (v : Word) : Prop :=
  s.Leaves t (s.pcAfterA a) (s.spAfterA a) (s.locA a) v none

/-- A special instruction that reads a: pc and SP have moved past a, nothing is written. -/
def State.PassesA (s t : State) (a : AOperand) : Prop :=
  s.Leaves t (s.pcAfterA a) (s.spAfterA a) (.lit 0) 0 none

/-! ## The cycles of an instruction in user mode (70_reset_and_hazards.md R344; log 7) -/

/-- A checked access of an instruction, with the cycles it costs beside its check once it is made. -/
structure CheckedAccess where
  kind : Access
  addr : Word
  cost : Nat
  deriving DecidableEq, Repr

/-- The fetch of an operand's next word, if it has one, from `addr`: a cycle for the word (R340). -/
def nextWordAccess (words : Nat) (addr : Word) : List CheckedAccess :=
  if words = 0 then [] else [{ kind := .execute, addr := addr, cost := 1 }]

/-- The access to a location: only words of memory are checked (20_memory.md R82). -/
def Loc.access (x : Access) : Loc → List CheckedAccess
  | .mem addr => [{ kind := x, addr := addr, cost := 0 }]
  | .reg _ => []
  | .sp => []
  | .pc => []
  | .ex => []
  | .lit _ => []

/-- The checked accesses of reading a after the first word, in order (40_operands.md R131). -/
def State.sourceAccesses (s : State) (a : AOperand) : List CheckedAccess :=
  nextWordAccess a.words (s.pc + 1) ++ (s.locA a).access .read

/-- Those of setting a. -/
def State.targetAccesses (s : State) (a : AOperand) : List CheckedAccess :=
  nextWordAccess a.words (s.pc + 1) ++ (s.locA a).access .write

/-- Those of reading a and evaluating b. -/
def State.operandAccesses (s : State) (b : BOperand) (a : AOperand) : List CheckedAccess :=
  s.sourceAccesses a ++ nextWordAccess b.words (s.pc + 1 + BitVec.ofNat 16 a.words)

/-- Those of an instruction that reads a and writes b. -/
def State.moveAccesses (s : State) (b : BOperand) (a : AOperand) : List CheckedAccess :=
  s.operandAccesses b a ++ (s.locB b a).access .write

/-- Those of an instruction that reads a and b. -/
def State.compareAccesses (s : State) (b : BOperand) (a : AOperand) : List CheckedAccess :=
  s.operandAccesses b a ++ (s.locB b a).access .read

/-- Those of an instruction that reads a, reads b and writes b. -/
def State.readModifyWriteAccesses (s : State) (b : BOperand) (a : AOperand) : List CheckedAccess :=
  s.compareAccesses b a ++ (s.locB b a).access .write

/-- Those of JSR: it reads a and pushes. -/
def State.jsrAccesses (s : State) (a : AOperand) : List CheckedAccess :=
  s.sourceAccesses a ++ (Loc.mem (s.spAfterA a - 1)).access .write

/-- User-mode cycles of a list of accesses up to the first that is denied: a cycle for each check, that of the denied one
included, and what the accesses made cost. -/
def State.spentOn (s : State) : List CheckedAccess → Nat
  | [] => 0
  | c :: rest => if s.permits c.kind c.addr then 1 + c.cost + s.spentOn rest else 1

/-- User-mode cycles of the checks and next words of an instruction with these accesses, the check of its first word
included; up to the first denied access, if one is. -/
def State.userCycles (s : State) (accesses : List CheckedAccess) : Nat := 1 + s.spentOn accesses

/-! ## What taking an interrupt leaves (60_exceptions.md R281) -/

/-- From `s`, whose pc is the address to return to, interrupt entry with message `m` leaves `t` (cycles and the counter of
free values aside). -/
structure State.EntersHandler (s t : State) (m : Word) : Prop where
  iq : t.iq = true
  pc : t.pc = s.ia
  a : t.reg .a = m
  regs : ∀ r, r ≠ .a → t.reg r = s.reg r
  rm : t.rm = if s.srtCalled then 0 else s.rm
  sp : t.sp = if s.srtCalled then s.sp - 3 else s.sp - 2
  long_frame : s.srtCalled = true →
    t.bank s.mb (s.sp - 1) = s.rm ∧ t.bank s.mb (s.sp - 2) = s.pc ∧ t.bank s.mb (s.sp - 3) = s.reg .a
  short_frame : s.srtCalled = false → t.bank s.mb (s.sp - 1) = s.pc ∧ t.bank s.mb (s.sp - 2) = s.reg .a
  mem : ∀ k w, ¬(k = s.mb ∧ (w = s.sp - 1 ∨ w = s.sp - 2 ∨ s.srtCalled = true ∧ w = s.sp - 3)) →
    t.bank k w = s.bank k w
  ex : t.ex = s.ex
  ia : t.ia = s.ia
  mb : t.mb = s.mb
  queue : t.queue = s.queue
  srtCalled : t.srtCalled = s.srtCalled
  perm : t.perm = s.perm
  gdtMsg : t.gdtMsg = s.gdtMsg
  onFire : t.onFire = s.onFire
  devices : t.devices = s.devices
  deviceEvents : t.deviceEvents = s.deviceEvents
  hwiAnswers : t.hwiAnswers = s.hwiAnswers

/-- From `s` only the queue and pc (and the counters of cycles and free values) have changed. -/
structure State.Continues (s t : State) (pc : Word) (queue : List Word) : Prop where
  regs : t.regs = s.regs
  pc_eq : t.pc = pc
  sp : t.sp = s.sp
  ex : t.ex = s.ex
  ia : t.ia = s.ia
  mb : t.mb = s.mb
  rm : t.rm = s.rm
  mem : t.mem = s.mem
  iq : t.iq = s.iq
  queue_eq : t.queue = queue
  srtCalled : t.srtCalled = s.srtCalled
  perm : t.perm = s.perm
  gdtMsg : t.gdtMsg = s.gdtMsg
  onFire : t.onFire = s.onFire
  devices : t.devices = s.devices
  deviceEvents : t.deviceEvents = s.deviceEvents
  hwiAnswers : t.hwiAnswers = s.hwiAnswers

/-! ## Skipping (43_conditionals.md R199) -/

/-- The address after the instruction at `addr` of the selected bank. -/
def State.nextInstr (s : State) (addr : Word) : Word :=
  addr + BitVec.ofNat 16 (wordLength (s.bank s.mb addr))

/-- The first word at `addr` of the selected bank is a conditional instruction's. -/
def State.conditionalAt (s : State) (addr : Word) : Bool := isConditionalWord (s.bank s.mb addr)

/-- The address after `n` instructions from `addr` on. -/
def State.afterInstrs (s : State) : Nat → Word → Word
  | 0, addr => addr
  | n + 1, addr => State.afterInstrs s n (s.nextInstr addr)

/-- From `addr` on stand exactly `n` conditional instructions and then one that is none, and every first word among
these `n + 1` may be fetched: the chain that a failed test skips. -/
def State.skipChainAt (s : State) : Nat → Word → Prop
  | 0, addr => s.permits .execute addr = true ∧ s.conditionalAt addr = false
  | n + 1, addr => s.permits .execute addr = true ∧ s.conditionalAt addr = true ∧
      State.skipChainAt s n (s.nextInstr addr)

/-- The conditional instructions with operands b and a, each with its condition on b's value and a's value
(R191 to R198). -/
def conditionals (b : BOperand) (a : AOperand) (vb va : Word) : List (Instr × Prop) :=
  [(.ifb b a, vb &&& va ≠ 0), (.ifc b a, vb &&& va = 0), (.ife b a, vb = va), (.ifn b a, vb ≠ va),
   (.ifg b a, va.toNat < vb.toNat), (.ifa b a, va.toInt < vb.toInt),
   (.ifl b a, vb.toNat < va.toNat), (.ifu b a, vb.toInt < va.toInt)]

/-- The conditional instructions with operands b and a, each with its opcode (30_encoding.md R106). -/
def conditionalOpcodes (b : BOperand) (a : AOperand) : List (Instr × BitVec 5) :=
  [(.ifb b a, 0x10), (.ifc b a, 0x11), (.ife b a, 0x12), (.ifn b a, 0x13), (.ifg b a, 0x14), (.ifa b a, 0x15),
   (.ifl b a, 0x16), (.ifu b a, 0x17)]

/-! ## Devices (60_exceptions.md R303 to R305) -/

/-- From `s` the change `w` of a device leaves `t`: the place it names holds the value, a word of memory in the bank it
names whatever `mb` is, and nothing else has changed (R303, R305). -/
def State.Changed (s t : State) : DeviceWrite → Prop
  | .reg r v => (∀ q, t.reg q = if q = r then v else s.reg q) ∧ t = { s with regs := t.regs }
  | .pc v => t = { s with pc := v }
  | .sp v => t = { s with sp := v }
  | .ex v => t = { s with ex := v }
  | .mem bank addr v =>
    (∀ k w, t.bank k w = if k = bank ∧ w = addr then v else s.bank k w) ∧ t = { s with mem := t.mem }

/-- The change is one that R303 allows the device: no word of a bank other than bank 0 unless its documentation says so. -/
def DeviceInfo.Reaches (d : DeviceInfo) (w : DeviceWrite) : Prop :=
  ∀ (k : BankNo) (addr v : Word), w = .mem k addr v → k = 0 ∨ d.otherBanks = true

/-- The act is one that R303 and R304 allow: an interrupt of a connected device, or a change that a device which has seen
an HWI may make. -/
def State.Allows (s : State) : DeviceEvent → Prop
  | .interrupt dev _ => dev < s.devices.length
  | .write dev w => ∃ d, s.devices[dev]? = some d ∧ d.hwiSeen = true ∧ d.info.Reaches w

/-- The messages of the interrupts among some acts, in order. -/
def messages : List DeviceEvent → List Word
  | [] => []
  | .interrupt _ m :: rest => m :: messages rest
  | .write _ _ :: rest => messages rest

/-- The changes among some acts, in order. -/
def changes : List DeviceEvent → List DeviceWrite
  | [] => []
  | .interrupt _ _ :: rest => changes rest
  | .write _ w :: rest => w :: changes rest

/-! ## Descriptor tables (20_memory.md R71 to R76) -/

/-- `e` is an entry of the GDT at `g`, or of the LDT of bank `k` that this GDT points to, as they stand in memory. -/
def State.descriptorFor (s : State) (g : Word) (k : BankNo) (e : Word) : Prop :=
  (∃ n, n < (s.bank 0 (g + 3)).toNat ∧ e = s.bank 0 (g + 4 + BitVec.ofNat 16 n)) ∨
    (s.bank 0 (g + 2) ≠ 0xffff ∧
      ∃ n, n < (s.bank k (s.bank k (s.bank 0 (g + 2)))).toNat ∧
        e = s.bank k (s.bank k (s.bank 0 (g + 2)) + 1 + BitVec.ofNat 16 n))

/-- The entry `e` gives access `x` to page `p`: the page is one of the l from s on, and the flag is set. -/
def entryGrants (e : Word) (p : Nat) (x : Access) : Prop :=
  e.toNat / 256 ≤ p ∧ p < e.toNat / 256 + e.toNat / 8 % 32 ∧ e.extractLsb' 0 3 &&& x.flag ≠ 0

end Sys2Proof.Machine
end

