-- ==== Sys2Proof/Certificates/Slice0/Obligations.lean ====
section
/-! DEFINITION. The statements for the provers: what the rules of spec/ say of every instruction and of the machine.
A hypothesis `s.allows… = true` says that the compiled table lets the instruction make its accesses; in kernel mode it
always holds (KernelModeChecksNothing). -/

section Statements

open Sys2Proof Sys2Proof.Machine

/-! ## Encoding -/

/-- Decoding the encoding of a well-formed instruction gives it back and leaves the words after it (30_encoding.md R101,
R102, R104; 40_operands.md R132 to R146). -/
def Obligations.DecodeEncode : Prop :=
  ∀ (i : Instr) (rest : List Word), i.wellFormed = true → decode (encode i ++ rest) = .ok (i, rest)

/-- Whatever decodes is well-formed and encodes back to the very words it was read from: no word has two meanings and no
bit is dropped (R105). -/
def Obligations.EncodeDecode : Prop :=
  ∀ (ws rest : List Word) (i : Instr), decode ws = .ok (i, rest) → i.wellFormed = true ∧ encode i ++ rest = ws

/-- The fields of the first word (R101, R102), and the length it announces (R103), also for unassigned opcodes. -/
def Obligations.FirstWordFields : Prop :=
  ∀ i : Instr, i.wellFormed = true →
    (∀ b, i.operandB = some b →
      i.firstWord.toNat = i.operandA.field.toNat * 1024 + b.field.toNat * 32 + i.opcode.toNat ∧ i.opcode ≠ 0) ∧
    (i.operandB = none → i.firstWord.toNat = i.operandA.field.toNat * 1024 + i.opcode.toNat * 32) ∧
    wordLength i.firstWord = (encode i).length ∧ 1 ≤ (encode i).length ∧ (encode i).length ≤ 3

/-- Worked encodings of 40_operands.md R155, 30_encoding.md R104 and of each family decode to their instructions. -/
def Obligations.SampleWordsDecode : Prop :=
  decode [0x7c01, 0x0030] = .ok (.set (.op (.reg .a)) (.op (.lit 0x0030)), []) ∧
  decode [0x8001] = .ok (.set (.op (.reg .a)) (.short 0xffff), []) ∧
  decode [0x4e21, 0x0005, 0x0002] = .ok (.set (.op (.indOff .b 0x0002)) (.op (.indOff .x 0x0005)), []) ∧
  decode [0xaf01] = .ok (.set .push (.short 10), []) ∧
  decode [0x6061] = .ok (.set (.op (.reg .x)) .pop, []) ∧
  decode [0x6801, 0x0003] = .ok (.set (.op (.reg .a)) (.op (.pick 0x0003)), []) ∧
  decode [0x7fc1, 0x0020, 0x1000] = .ok (.set (.op (.abs 0x1000)) (.op (.lit 0x0020)), []) ∧
  decode [0x0402] = .ok (.add (.op (.reg .a)) (.op (.reg .b)), []) ∧
  decode [0x040d] = .ok (.shr (.op (.reg .a)) (.op (.reg .b)), []) ∧
  decode [0x0416] = .ok (.ifl (.op (.reg .a)) (.op (.reg .b)), []) ∧
  decode [0x3dde] = .ok (.sti (.op (.ind .i)) (.op (.ind .j)), []) ∧
  decode [0x7c20, 0x0100] = .ok (.jsr (.op (.lit 0x0100)), []) ∧
  decode [0xa8c0] = .ok (.mbo (.short 0x0009), []) ∧
  decode [0x8560] = .ok (.rfi (.short 0), []) ∧
  decode [0x0200] = .ok (.hwn (.op (.reg .a)), []) ∧
  decode [0x02e0] = .ok (.drm (.op (.reg .a)), []) ∧
  decode [0x0000] = .ok (.special00 (.op (.reg .a)), [])

/-- Values 0x20 to 0x3f of the a field are the literals -1 to 30, without a next word (40_operands.md R146); the b field
has five bits and so no such value. -/
def Obligations.ShortLiterals : Prop :=
  ∀ (f : Nat) (next : Word) (s : State), 0x20 ≤ f → f ≤ 0x3f →
    AOperand.loc (decodeA (BitVec.ofNat 6 f) next) s = .lit (BitVec.ofInt 16 ((f : Int) - 0x21)) ∧
    (decodeA (BitVec.ofNat 6 f) next).words = 0

/-- The location each operand value names, which of them take the next word, what POP and PUSH do to SP, and what a location
holds (40_operands.md R132 to R145, R147; 30_encoding.md R113). -/
def Obligations.OperandLocations : Prop :=
  ∀ (s : State) (n : Word),
    (∀ r : Reg,
      AOperand.loc (decodeA (0#3 ++ r.code) n) s = .reg r ∧ BOperand.loc (decodeB (0#2 ++ r.code) n) s = .reg r ∧
      AOperand.loc (decodeA (1#3 ++ r.code) n) s = .mem (s.reg r) ∧
      BOperand.loc (decodeB (1#2 ++ r.code) n) s = .mem (s.reg r) ∧
      AOperand.loc (decodeA (2#3 ++ r.code) n) s = .mem (s.reg r + n) ∧
      BOperand.loc (decodeB (2#2 ++ r.code) n) s = .mem (s.reg r + n)) ∧
    AOperand.loc (decodeA 0x18 n) s = .mem s.sp ∧ AOperand.spAfter (decodeA 0x18 n) s = s.sp + 1 ∧
    BOperand.loc (decodeB 0x18 n) s = .mem (s.sp - 1) ∧ BOperand.spAfter (decodeB 0x18 n) s = s.sp - 1 ∧
    AOperand.loc (decodeA 0x19 n) s = .mem s.sp ∧ BOperand.loc (decodeB 0x19 n) s = .mem s.sp ∧
    AOperand.loc (decodeA 0x1a n) s = .mem (s.sp + n) ∧ BOperand.loc (decodeB 0x1a n) s = .mem (s.sp + n) ∧
    AOperand.loc (decodeA 0x1b n) s = .sp ∧ BOperand.loc (decodeB 0x1b n) s = .sp ∧
    AOperand.loc (decodeA 0x1c n) s = .pc ∧ BOperand.loc (decodeB 0x1c n) s = .pc ∧
    AOperand.loc (decodeA 0x1d n) s = .ex ∧ BOperand.loc (decodeB 0x1d n) s = .ex ∧
    AOperand.loc (decodeA 0x1e n) s = .mem n ∧ BOperand.loc (decodeB 0x1e n) s = .mem n ∧
    AOperand.loc (decodeA 0x1f n) s = .lit n ∧ BOperand.loc (decodeB 0x1f n) s = .lit n ∧
    (∀ f : BitVec 6, f ≠ 0x18 → AOperand.spAfter (decodeA f n) s = s.sp) ∧
    (∀ f : BitVec 5, f ≠ 0x18 → BOperand.spAfter (decodeB f n) s = s.sp) ∧
    (∀ f : BitVec 6, (decodeA f n).words = nextWordsOfValue f.toNat) ∧
    (∀ f : BitVec 5, (decodeB f n).words = nextWordsOfValue f.toNat) ∧
    (∀ r : Reg, s.valueAt (.reg r) = s.reg r) ∧ (∀ w : Word, s.valueAt (.mem w) = s.bank s.mb w) ∧
    s.valueAt .sp = s.sp ∧ s.valueAt .pc = s.pc ∧ s.valueAt .ex = s.ex ∧ s.valueAt (.lit n) = n

/-- Executing an unassigned or reserved opcode is the model fault `UndefinedInstruction`, in either ring mode. That it
stops so is the spec's decision D12 (30_encoding.md R108, R109; log 10). -/
def Obligations.UnassignedOpcodesStop : Prop :=
  ∀ (b : BOperand) (a : AOperand) (s : State),
    ∀ i ∈ [Instr.basic18 b a, .basic19 b a, .basic1c b a, .basic1d b a, .special00 a, .special02 a, .special03 a,
      .special04 a, .special07 a, .special0d a, .special0e a, .special0f a, .special13 a, .special14 a, .special15 a,
      .special19 a, .special1a a, .special1b a, .special1c a, .special1d a, .special1e a, .special1f a],
    exec i s = .fault .undefinedInstruction

/-! ## Reset -/

/-- "The DCPU-16e always starts in kernel mode (RM=0) on memory bank zero (MB=0)." (10_state.md R42) -/
def Obligations.ResetRingAndBank : Prop := State.reset.rm = 0 ∧ State.reset.mb = 0

/-- The other reset values: the spec's decisions D1 and D16 (10_state.md R43 to R48, from general knowledge for the
registers; log 1), and no device connected (00_scope.md R4, the model's choice, log 4). Memory is an open parameter, a
free value of the model (R49, log 2), and is not stated. -/
def Obligations.ResetRegisters : Prop :=
  (∀ r, State.reset.reg r = 0) ∧ State.reset.pc = 0 ∧ State.reset.sp = 0 ∧ State.reset.ex = 0 ∧ State.reset.ia = 0 ∧
    State.reset.iq = false ∧ State.reset.queue = [] ∧ State.reset.srtCalled = false ∧ State.reset.onFire = false ∧
    (∀ k p, State.reset.perm.flags k p = 0) ∧ State.reset.gdtMsg = 0 ∧ State.reset.devices = []

/-- The invariant of the model holds after reset. -/
def Obligations.ResetInvariant : Prop := State.reset.Inv

/-! ## The step -/

/-- A step is the device phase, the interrupt phase and then exactly the instruction that the words at pc decode to
(60_exceptions.md R270). With no device acting and no interrupt to deliver, it is that instruction at that very state. That
phase B takes a message raised in phase A of the same step is log 26. -/
def Obligations.StepRunsDecodedInstruction : Prop :=
  (∀ (s t u : State) (i : Instr) (rest : List Word), s.onFire = false → devicePhase s = .next t →
    interruptPhase t = .next u → u.permits .execute u.pc = true → decode u.fetchWords = .ok (i, rest) →
    step s = exec i u) ∧
  (∀ (s : State) (i : Instr) (rest : List Word), s.Quiet → s.permits .execute s.pc = true →
    decode s.fetchWords = .ok (i, rest) → step s = exec i s)

/-- Every step from a state that satisfies the invariant leads to one that does: memory and compiled tables stay in
canonical form, the queue never holds more than 256 messages, the machine is not on fire, at most 65535 devices. -/
def Obligations.StepKeepsInvariant : Prop :=
  ∀ s t : State, s.Inv → step s = .next t → t.Inv

/-- Phase B (60_exceptions.md R270, R278, R281): nothing while queueing is on or the queue is empty; else the oldest
message leaves the queue and is dropped with IA = 0, or enters the handler, or ends in the model fault of a denied push
(R282). That the OLDEST message leaves first is R280, which the spec takes from general knowledge (log 24, PRESUMED); the
phase and its place in the step are the spec's decisions D23 and D25. -/
def Obligations.InterruptPhaseDelivers : Prop :=
  ∀ (s : State) (m : Word) (rest : List Word),
    (s.iq = true ∨ s.queue = [] → interruptPhase s = .next s) ∧
    (s.iq = false → s.queue = m :: rest → s.ia = 0 →
      ∃ t, interruptPhase s = .next t ∧ s.Continues t s.pc rest) ∧
    (s.iq = false → s.queue = m :: rest → s.ia ≠ 0 → s.allowsFrame = true →
      ∃ t, interruptPhase s = .next t ∧ (s.setQueue rest).EntersHandler t m) ∧
    (s.iq = false → s.queue = m :: rest → s.ia ≠ 0 → s.allowsFrame = false →
      interruptPhase s = .fault .doubleFault)

/-- A queue of 256 is allowed, the 257th message sets the machine on fire, and a machine on fire has no step
(60_exceptions.md R275, R279, the spec's decision D26; log 9). A hardware interrupt enters the queue whatever `iq` and IA
are, before any HWI too (R276, R304, the spec's decisions D25 and D27). -/
def Obligations.QueueLimit : Prop :=
  ∀ (s : State) (m : Word) (dev : Nat),
    (s.queue.length < 256 → enqueue m s = .next { s with queue := s.queue ++ [m] }) ∧
    (256 ≤ s.queue.length → enqueue m s = .fault .onFire) ∧
    (dev < s.devices.length → s.queue.length < 256 →
      deviceEvent (.interrupt dev m) s = .next { s with queue := s.queue ++ [m] }) ∧
    (dev < s.devices.length → 256 ≤ s.queue.length → deviceEvent (.interrupt dev m) s = .fault .onFire) ∧
    (s.onFire = true → step s = .fault .onFire)

/-- Taking an interrupt (60_exceptions.md R281): in the short form PC and A are pushed, in the long form, once SRT has
been called, RM, PC and A, and RM becomes 0; nothing that R281 does not name changes. With IA = 0 a message changes
nothing (R278); a denied push is `DoubleFault` (R282). -/
def Obligations.InterruptEntry : Prop :=
  ∀ (s : State) (m : Word),
    (s.ia = 0 → deliver m s = .next s) ∧
    (s.ia ≠ 0 → s.allowsFrame = true → ∃ t, deliver m s = .next t ∧ s.EntersHandler t m) ∧
    (s.ia ≠ 0 → s.allowsFrame = false → deliver m s = .fault .doubleFault) ∧
    (s.rm = 0 → s.allowsFrame = true)

/-- RFI is the exact inverse of interrupt entry (47_interrupt_instr.md R236): right after entry, RFI with a literal
operand restores every register, PC, SP and RM, and turns queueing off. -/
def Obligations.RfiInvertsEntry : Prop :=
  ∀ (s t : State) (m v : Word), s.ia ≠ 0 → (s.srtCalled = true ∨ s.rm = 0) → deliver m s = .next t →
    ∃ u, exec (.rfi (.short v)) t = .next u ∧ (∀ r, u.reg r = s.reg r) ∧ u.pc = s.pc ∧ u.sp = s.sp ∧ u.rm = s.rm ∧
      u.iq = false ∧ u.ex = s.ex ∧ u.ia = s.ia ∧ u.mb = s.mb ∧ u.queue = s.queue ∧ u.perm = s.perm

/-- Raising a GPF (60_exceptions.md R292, R294, R296): the instruction that started in `s` has no effect of its own, pc is
left at `r`, and a software interrupt with message gdt_msg OR code is queued, dropped, or enters the handler. -/
def Obligations.GpfIsAnInterrupt : Prop :=
  ∀ (g : Gpf) (r : Word) (s : State),
    (s.iq = true → s.queue.length < 256 →
      ∃ t, raiseGpf g r s = .next t ∧ s.Continues t r (s.queue ++ [s.gdtMsg ||| g.code])) ∧
    (s.iq = true → 256 ≤ s.queue.length → raiseGpf g r s = .fault .onFire) ∧
    (s.iq = false → s.ia = 0 → ∃ t, raiseGpf g r s = .next t ∧ s.Continues t r s.queue) ∧
    (s.iq = false → s.ia ≠ 0 → s.allowsFrame = true →
      ∃ t, raiseGpf g r s = .next t ∧ (s.setPc r).EntersHandler t (s.gdtMsg ||| g.code)) ∧
    (s.iq = false → s.ia ≠ 0 → s.allowsFrame = false → raiseGpf g r s = .fault .doubleFault) ∧
    Gpf.code .ins = 0x0001 ∧ Gpf.code .mem = 0x0002

/-- The eight privileged instructions raise GPFINS in user mode, before their operand is evaluated (60_exceptions.md R286,
R291, the spec's decision D15), and are the only ones that do: `Instr.privileged` names them. pc after the instruction is the
spec's decision D14 (R292); that the check of the first word is paid and nothing else is the model's reading of R344 (log
7). -/
def Obligations.PrivilegedInUserMode : Prop :=
  ∀ (a : AOperand) (s : State), s.rm ≠ 0 →
    (∀ i ∈ [Instr.hwi a, .hwn a, .hwq a, .iaq a, .ias a, .rfi a, .srt a, .mbo a],
      exec i s = raiseGpf .ins (s.pc + BitVec.ofNat 16 (1 + a.words)) (s.addCycles 1)) ∧
    (∀ i : Instr, i.privileged = true ↔
      ∃ c : AOperand, i ∈ [Instr.hwi c, .hwn c, .hwq c, .iaq c, .ias c, .rfi c, .srt c, .mbo c])

/-- A denied access raises GPFMEM and abandons the instruction (60_exceptions.md R292, R293, the spec's decision D14): pc is
one past the first word if that was denied, whatever the devices did and whether an interrupt was delivered before, else
after the instruction's last word (which accesses: 40_operands.md R150). The cycles of the consultations up to the denied one
and of the next words passed are not undone: the model's reading of 70_reset_and_hazards.md R340 and R344 (log 7, DESIGN
CHOICE). -/
def Obligations.DeniedAccessRaisesGpf : Prop :=
  ∀ (b : BOperand) (a : AOperand) (s : State),
    (s.permits .execute s.pc = false → instructionPhase s = raiseGpf .mem (s.pc + 1) (s.addCycles 1) ∧
      (s.Quiet → step s = raiseGpf .mem (s.pc + 1) (s.addCycles 1))) ∧
    (∀ t u : State, s.onFire = false → devicePhase s = .next t → interruptPhase t = .next u →
      u.permits .execute u.pc = false → step s = raiseGpf .mem (u.pc + 1) (u.addCycles 1)) ∧
    (s.allowsReadModifyWrite b a = false →
      ∀ i ∈ [Instr.add b a, .sub b a, .mul b a, .mli b a, .div b a, .dvi b a, .mod b a, .mdi b a, .and b a, .bor b a,
        .xor b a, .shr b a, .asr b a, .shl b a, .adx b a, .sbx b a],
      exec i s = raiseGpf .mem (s.pcAfterAB b a) (s.addCycles (s.userCycles (s.readModifyWriteAccesses b a)))) ∧
    (s.allowsMove b a = false → ∀ i ∈ [Instr.set b a, .sti b a, .std b a],
      exec i s = raiseGpf .mem (s.pcAfterAB b a) (s.addCycles (s.userCycles (s.moveAccesses b a)))) ∧
    (s.allowsCompare b a = false →
      ∀ i ∈ [Instr.ifb b a, .ifc b a, .ife b a, .ifn b a, .ifg b a, .ifa b a, .ifl b a, .ifu b a],
      exec i s = raiseGpf .mem (s.pcAfterAB b a) (s.addCycles (s.userCycles (s.compareAccesses b a)))) ∧
    (s.allowsSource a = false → ∀ i ∈ [Instr.jsr a, .int a],
      exec i s = raiseGpf .mem (s.pcAfterA a) (s.addCycles (s.userCycles (s.sourceAccesses a)))) ∧
    (s.allowsTarget a = false → ∀ i ∈ [Instr.mbg a, .iag a, .grm a, .drm a],
      exec i s = raiseGpf .mem (s.pcAfterA a) (s.addCycles (s.userCycles (s.targetAccesses a))))

/-- "In kernel mode (`rm == 0`) no access is checked" (20_memory.md R70); in user mode the flag of the page of the
selected bank decides (R78 to R81). -/
def Obligations.KernelModeChecksNothing : Prop :=
  ∀ (s : State) (x : Access) (addr : Word),
    (s.rm = 0 → s.permits x addr = true) ∧
    (s.rm ≠ 0 → (s.permits x addr = true ↔ s.perm.flags s.mb (addr.toNat / 256) &&& x.flag ≠ 0)) ∧
    (∀ (b : BOperand) (a : AOperand), s.rm = 0 →
      s.allowsReadModifyWrite b a = true ∧ s.allowsMove b a = true ∧ s.allowsCompare b a = true ∧
        s.allowsSource a = true ∧ s.allowsTarget a = true)

/-! ## Move and arithmetic -/

/-- SET (41_move_arith.md R161): b holds a's value, nothing else changes; b is not read. -/
def Obligations.SetResult : Prop :=
  ∀ (b : BOperand) (a : AOperand) (s : State), (Instr.set b a).firstWord = a.field ++ b.field ++ 0x01#5 ∧
    (s.allowsMove b a = true → ∃ t, exec (.set b a) s = .next t ∧ s.SetsB t b a (s.valueA a) none)

/-- ADD (R162): b + a, EX 1 on a carry out of bit 15 and else 0. -/
def Obligations.AddResult : Prop :=
  ∀ (b : BOperand) (a : AOperand) (s : State), (Instr.add b a).firstWord = a.field ++ b.field ++ 0x02#5 ∧
    (s.allowsReadModifyWrite b a = true → ∃ t, exec (.add b a) s = .next t ∧
      s.SetsB t b a (s.valueB b a + s.valueA a)
        (some (if (s.valueB b a).toNat + (s.valueA a).toNat > 0xffff then 0x0001 else 0x0000)))

/-- SUB (R163): b - a, EX 0xffff on a borrow and else 0. -/
def Obligations.SubResult : Prop :=
  ∀ (b : BOperand) (a : AOperand) (s : State), (Instr.sub b a).firstWord = a.field ++ b.field ++ 0x03#5 ∧
    (s.allowsReadModifyWrite b a = true → ∃ t, exec (.sub b a) s = .next t ∧
      s.SetsB t b a (s.valueB b a - s.valueA a)
        (some (if (s.valueB b a).toNat < (s.valueA a).toNat then 0xffff else 0x0000)))

/-- MUL (R164): the low word of the unsigned product, EX its high word. -/
def Obligations.MulResult : Prop :=
  ∀ (b : BOperand) (a : AOperand) (s : State), (Instr.mul b a).firstWord = a.field ++ b.field ++ 0x04#5 ∧
    (s.allowsReadModifyWrite b a = true → ∃ t, exec (.mul b a) s = .next t ∧
      s.SetsB t b a (((s.valueB b a).zeroExtend 32 * (s.valueA a).zeroExtend 32).extractLsb' 0 16)
        (some (((s.valueB b a).zeroExtend 32 * (s.valueA a).zeroExtend 32).extractLsb' 16 16)))

/-- MLI (R165): the low word of the signed product, EX its high word as a 32-bit two's complement number. -/
def Obligations.MliResult : Prop :=
  ∀ (b : BOperand) (a : AOperand) (s : State), (Instr.mli b a).firstWord = a.field ++ b.field ++ 0x05#5 ∧
    (s.allowsReadModifyWrite b a = true → ∃ t, exec (.mli b a) s = .next t ∧
      s.SetsB t b a (((s.valueB b a).signExtend 32 * (s.valueA a).signExtend 32).extractLsb' 0 16)
        (some (((s.valueB b a).signExtend 32 * (s.valueA a).signExtend 32).extractLsb' 16 16)))

/-- DIV (R166): the unsigned quotient, EX its first 16 fractional bits, both 0 if a is 0. -/
def Obligations.DivResult : Prop :=
  ∀ (b : BOperand) (a : AOperand) (s : State), (Instr.div b a).firstWord = a.field ++ b.field ++ 0x06#5 ∧
    (s.allowsReadModifyWrite b a = true → ∃ t, exec (.div b a) s = .next t ∧
      s.SetsB t b a (if s.valueA a = 0 then 0 else s.valueB b a / s.valueA a)
        (some (if s.valueA a = 0 then 0
          else BitVec.ofNat 16 ((s.valueB b a).toNat * 65536 / (s.valueA a).toNat))))

/-- DVI (R167): both quotients are signed and round towards 0; that EX rounds so too is the spec's decision D9. -/
def Obligations.DviResult : Prop :=
  ∀ (b : BOperand) (a : AOperand) (s : State), (Instr.dvi b a).firstWord = a.field ++ b.field ++ 0x07#5 ∧
    (s.allowsReadModifyWrite b a = true → ∃ t, exec (.dvi b a) s = .next t ∧
      s.SetsB t b a (if s.valueA a = 0 then 0 else (s.valueB b a).sdiv (s.valueA a))
        (some (if s.valueA a = 0 then 0
          else BitVec.ofInt 16 (((s.valueB b a).toInt * 65536).tdiv (s.valueA a).toInt))))

/-- MOD and MDI (R168, R169): the unsigned remainder, and the signed one with the sign of b; 0 if a is 0. That EX is not
written is an inference the spec marks as its own (10_state.md R27), and that MDI of -32768 by -1 is 0 is its decision D9 (log
14). -/
def Obligations.RemainderResults : Prop :=
  ∀ (b : BOperand) (a : AOperand) (s : State), (Instr.mod b a).firstWord = a.field ++ b.field ++ 0x08#5 ∧
    (Instr.mdi b a).firstWord = a.field ++ b.field ++ 0x09#5 ∧
    (s.allowsReadModifyWrite b a = true →
      (∃ t, exec (.mod b a) s = .next t ∧
        s.SetsB t b a (if s.valueA a = 0 then 0 else s.valueB b a % s.valueA a) none) ∧
      (∃ t, exec (.mdi b a) s = .next t ∧
        s.SetsB t b a (if s.valueA a = 0 then 0 else (s.valueB b a).srem (s.valueA a)) none))

/-! ## Logic and shifts -/

/-- AND, BOR, XOR (42_logic_shift.md R181 to R183): bit by bit, EX unchanged. -/
def Obligations.LogicResults : Prop :=
  ∀ (b : BOperand) (a : AOperand) (s : State),
    (Instr.and b a).firstWord = a.field ++ b.field ++ 0x0a#5 ∧ (Instr.bor b a).firstWord = a.field ++ b.field ++ 0x0b#5 ∧
    (Instr.xor b a).firstWord = a.field ++ b.field ++ 0x0c#5 ∧
    (s.allowsReadModifyWrite b a = true →
      (∃ t, exec (.and b a) s = .next t ∧ s.SetsB t b a (s.valueB b a &&& s.valueA a) none) ∧
      (∃ t, exec (.bor b a) s = .next t ∧ s.SetsB t b a (s.valueB b a ||| s.valueA a) none) ∧
      (∃ t, exec (.xor b a) s = .next t ∧ s.SetsB t b a (s.valueB b a ^^^ s.valueA a) none))

/-- SHR (R184): b shifted right with zeros by the whole value of a; EX is the low half of (b, 0) shifted likewise. Beyond
16 places this is the spec's decision D8. -/
def Obligations.ShrResult : Prop :=
  ∀ (b : BOperand) (a : AOperand) (s : State), (Instr.shr b a).firstWord = a.field ++ b.field ++ 0x0d#5 ∧
    (s.allowsReadModifyWrite b a = true → ∃ t, exec (.shr b a) s = .next t ∧
      s.SetsB t b a (s.valueB b a >>> (s.valueA a).toNat)
        (some (((s.valueB b a ++ (0 : Word)) >>> (s.valueA a).toNat).extractLsb' 0 16)))

/-- ASR (R185): b shifted right with copies of its sign by the whole value of a; EX is the low half of (b, 0) shifted
likewise. Beyond 16 places this is the spec's decision D8. -/
def Obligations.AsrResult : Prop :=
  ∀ (b : BOperand) (a : AOperand) (s : State), (Instr.asr b a).firstWord = a.field ++ b.field ++ 0x0e#5 ∧
    (s.allowsReadModifyWrite b a = true → ∃ t, exec (.asr b a) s = .next t ∧
      s.SetsB t b a ((s.valueB b a).sshiftRight (s.valueA a).toNat)
        (some (((s.valueB b a ++ (0 : Word)).sshiftRight (s.valueA a).toNat).extractLsb' 0 16)))

/-- SHL (R186): b shifted left by the whole value of a, EX the 16 bits above it. Beyond 31 places this is the spec's
decision D8. -/
def Obligations.ShlResult : Prop :=
  ∀ (b : BOperand) (a : AOperand) (s : State), (Instr.shl b a).firstWord = a.field ++ b.field ++ 0x0f#5 ∧
    (s.allowsReadModifyWrite b a = true → ∃ t, exec (.shl b a) s = .next t ∧
      s.SetsB t b a (s.valueB b a <<< (s.valueA a).toNat)
        (some (((s.valueB b a).zeroExtend 32 <<< (s.valueA a).toNat).extractLsb' 16 16)))

/-! ## Carry arithmetic and stepping moves -/

/-- ADX and SBX (44_carry_loop.md R206, R207): b + a + EX and b - a + EX, EX read as unsigned. That EX is 1 for any sum above
0xffff, and that SBX reads EX as unsigned, are the spec's decisions D11 and D10. -/
def Obligations.CarryResults : Prop :=
  ∀ (b : BOperand) (a : AOperand) (s : State), (Instr.adx b a).firstWord = a.field ++ b.field ++ 0x1a#5 ∧
    (Instr.sbx b a).firstWord = a.field ++ b.field ++ 0x1b#5 ∧
    (s.allowsReadModifyWrite b a = true →
      (∃ t, exec (.adx b a) s = .next t ∧
        s.SetsB t b a (s.valueB b a + s.valueA a + s.ex)
          (some (if (s.valueB b a).toNat + (s.valueA a).toNat + s.ex.toNat > 0xffff then 0x0001 else 0x0000))) ∧
      (∃ t, exec (.sbx b a) s = .next t ∧
        s.SetsB t b a (s.valueB b a - s.valueA a + s.ex)
          (some (if (s.valueB b a).toNat + s.ex.toNat < (s.valueA a).toNat then 0xffff
            else if (s.valueB b a).toNat + s.ex.toNat > 0xffff + (s.valueA a).toNat then 0x0001 else 0x0000))))

/-- STI and STD (R209, R210): b holds a's value, then I and J go up or down by one, b's register included. -/
def Obligations.StepMoves : Prop :=
  ∀ (b : BOperand) (a : AOperand) (s : State), (Instr.sti b a).firstWord = a.field ++ b.field ++ 0x1e#5 ∧
    (Instr.std b a).firstWord = a.field ++ b.field ++ 0x1f#5 ∧
    (s.allowsMove b a = true → ∀ p ∈ [(Instr.sti b a, (1 : Word)), (.std b a, -1)],
      ∃ t u, exec p.1 s = .next t ∧ s.SetsB u b a (s.valueA a) none ∧
        (∀ r, t.reg r = if r = .i ∨ r = .j then u.reg r + p.2 else u.reg r) ∧
        t.pc = u.pc ∧ t.sp = u.sp ∧ t.ex = u.ex ∧ (∀ k w, t.bank k w = u.bank k w) ∧ u.SameSystem t)

/-! ## Conditionals -/

/-- A conditional whose condition holds changes nothing but pc and what its operands do to SP (43_conditionals.md R190 to
R198). -/
def Obligations.TestPasses : Prop :=
  ∀ (b : BOperand) (a : AOperand) (s : State),
    (∀ p ∈ conditionalOpcodes b a, p.1.firstWord = a.field ++ b.field ++ p.2) ∧
    (s.allowsCompare b a = true → ∀ p ∈ conditionals b a (s.valueB b a) (s.valueA a), p.2 →
      ∃ t, exec p.1 s = .next t ∧ s.Leaves t (s.pcAfterAB b a) (s.spAfterAB b a) (.lit 0) 0 none)

/-- A conditional whose condition fails skips the next instruction, and one more for every conditional it skips, up to the
first that is none; the operands of skipped instructions do nothing (R199, R201). -/
def Obligations.TestFailsSkips : Prop :=
  ∀ (b : BOperand) (a : AOperand) (s : State) (n : Nat),
    (∀ p ∈ conditionalOpcodes b a, p.1.firstWord = a.field ++ b.field ++ p.2) ∧
    (s.allowsCompare b a = true → s.skipChainAt n (s.pcAfterAB b a) →
      ∀ p ∈ conditionals b a (s.valueB b a) (s.valueA a), ¬p.2 →
        ∃ t, exec p.1 s = .next t ∧
          s.Leaves t (s.afterInstrs (n + 1) (s.pcAfterAB b a)) (s.spAfterAB b a) (.lit 0) 0 none)

/-- In user mode a first word of the chain that may not be fetched abandons the conditional with GPFMEM, pc one past that
word (R203, the spec's decision D13). The cycles of the checks and of the instructions skipped before it are not undone (the
model's reading of 70_reset_and_hazards.md R343 and R344, log 7). -/
def Obligations.DeniedSkipRaisesGpf : Prop :=
  ∀ (b : BOperand) (a : AOperand) (s : State) (n : Nat), s.allowsCompare b a = true →
    (∀ m, m < n → s.permits .execute (s.afterInstrs m (s.pcAfterAB b a)) = true ∧
      s.conditionalAt (s.afterInstrs m (s.pcAfterAB b a)) = true) →
    s.permits .execute (s.afterInstrs n (s.pcAfterAB b a)) = false →
    ∀ p ∈ conditionals b a (s.valueB b a) (s.valueA a), ¬p.2 →
      exec p.1 s = raiseGpf .mem (s.afterInstrs n (s.pcAfterAB b a) + 1)
        (s.addCycles (s.userCycles (s.compareAccesses b a) + (2 * n + 1)))

/-- A chain that meets conditionals only never ends, and the model stops there (log 8; R204: "There is no limit on the
length of a chain"). -/
def Obligations.EndlessSkipStops : Prop :=
  ∀ (b : BOperand) (a : AOperand) (s : State), s.allowsCompare b a = true →
    (∀ n, s.permits .execute (s.afterInstrs n (s.pcAfterAB b a)) = true ∧
      s.conditionalAt (s.afterInstrs n (s.pcAfterAB b a)) = true) →
    ∀ p ∈ conditionals b a (s.valueB b a) (s.valueA a), ¬p.2 → exec p.1 s = .fault .endlessSkip

/-! ## Special instructions -/

/-- JSR (45_jsr.md R216): the address of the next instruction is pushed, then pc is a's value, which was read before the
push. A denied read or push abandons it with pc after its last word (60_exceptions.md R292, the spec's decision D14, log
14), the cycles up to then spent (log 7). -/
def Obligations.JsrResult : Prop :=
  ∀ (a : AOperand) (s : State), (Instr.jsr a).firstWord = a.field ++ 0x01#5 ++ 0#5 ∧
    (s.allowsSource a = true → s.permits .write (s.spAfterA a - 1) = true → ∃ t, exec (.jsr a) s = .next t ∧
      s.Leaves t (s.valueA a) (s.spAfterA a - 1) (.mem (s.spAfterA a - 1)) (s.pcAfterA a) none) ∧
    (s.allowsSource a = false ∨ s.permits .write (s.spAfterA a - 1) = false →
      exec (.jsr a) s = raiseGpf .mem (s.pcAfterA a) (s.addCycles (s.userCycles (s.jsrAccesses a))))

/-- MBG, IAG and GRM (46_banks.md R221, 47_interrupt_instr.md R233, 49_ring_instr.md R256): a holds MB, IA or RM. The spec's
decisions under this (log 14): POP as a destination (40_operands.md R151, D6), the 16 bits of RM (10_state.md R31, D21), and
pc after the last word when a denied write abandons them (60_exceptions.md R292, D14); its cycles are log 7. -/
def Obligations.ControlRegisterReads : Prop :=
  ∀ (a : AOperand) (s : State), (Instr.mbg a).firstWord = a.field ++ 0x05#5 ++ 0#5 ∧
    (Instr.iag a).firstWord = a.field ++ 0x09#5 ++ 0#5 ∧ (Instr.grm a).firstWord = a.field ++ 0x16#5 ++ 0#5 ∧
    (s.allowsTarget a = true →
      (∃ t, exec (.mbg a) s = .next t ∧ s.SetsA t a (s.mb.zeroExtend 16)) ∧
      (∃ t, exec (.iag a) s = .next t ∧ s.SetsA t a s.ia) ∧
      (∃ t, exec (.grm a) s = .next t ∧ s.SetsA t a s.rm)) ∧
    (s.allowsTarget a = false → ∀ i ∈ [Instr.mbg a, .iag a, .grm a],
      exec i s = raiseGpf .mem (s.pcAfterA a) (s.addCycles (s.userCycles (s.targetAccesses a))))

/-- DRM (49_ring_instr.md R257): a holds the old RM, written under it, and RM is 1. POP as a destination, the 16 bits of RM and
pc after a denied write are the spec's decisions D6, D21 and D14 (R151, R31, R292; log 14); the cycles a denied DRM keeps are
the model's choice (log 7, DESIGN CHOICE). -/
def Obligations.DrmResult : Prop :=
  ∀ (a : AOperand) (s : State), (Instr.drm a).firstWord = a.field ++ 0x17#5 ++ 0#5 ∧
    (s.allowsTarget a = true → ∃ t, exec (.drm a) s = .next t ∧
      (s.setRm 1).Leaves t (s.pcAfterA a) (s.spAfterA a) (s.locA a) s.rm none) ∧
    (s.allowsTarget a = false →
      exec (.drm a) s = raiseGpf .mem (s.pcAfterA a) (s.addCycles (s.userCycles (s.targetAccesses a))))

/-- MBO (46_banks.md R222) in kernel mode: bank P is selected, and if s and d differ the 512 words of block q go from bank
s to bank d; no other word changes. That the operand is read in the old bank is the spec's decision D31; GPFINS in user mode,
before the operand and with pc after the instruction, is R291 and R292 of 60_exceptions.md, decisions D15 and D14 (log 14);
the cycle it keeps is the model's choice (log 7, DESIGN CHOICE). -/
def Obligations.MboResult : Prop :=
  ∀ (a : AOperand) (s : State), (Instr.mbo a).firstWord = a.field ++ 0x06#5 ++ 0#5 ∧
    (s.rm = 0 → ∃ t, exec (.mbo a) s = .next t ∧
      t.mb = (s.valueA a).extractLsb' 0 3 ∧
      (∀ (k : BankNo) (w : Word), t.bank k w =
        if (s.valueA a).extractLsb' 6 3 ≠ (s.valueA a).extractLsb' 3 3 ∧ k = (s.valueA a).extractLsb' 3 3 ∧
            w.extractLsb' 9 7 = (s.valueA a).extractLsb' 9 7 then s.bank ((s.valueA a).extractLsb' 6 3) w
        else s.bank k w) ∧
      ((s.setMb t.mb).setMem t.mem).PassesA t a) ∧
    (s.rm ≠ 0 → exec (.mbo a) s = raiseGpf .ins (s.pcAfterA a) (s.addCycles 1))

/-- INT (47_interrupt_instr.md R231): the message waits while queueing is on, is dropped with IA = 0, and else enters the
handler with pc after the INT saved; the 257th message and a denied push are the model faults of R279 and R282. pc after a
denied read is the spec's decision D14 (60_exceptions.md R292, log 14), the cycles kept then are the model's choice (log 7,
DESIGN CHOICE). -/
def Obligations.IntResult : Prop :=
  ∀ (a : AOperand) (s : State), (Instr.int a).firstWord = a.field ++ 0x08#5 ++ 0#5 ∧
    (s.allowsSource a = true →
      (s.iq = true → s.queue.length < 256 → ∃ t, exec (.int a) s = .next t ∧
        (s.setQueue (s.queue ++ [s.valueA a])).PassesA t a) ∧
      (s.iq = true → 256 ≤ s.queue.length → exec (.int a) s = .fault .onFire) ∧
      (s.iq = false → s.ia = 0 → ∃ t, exec (.int a) s = .next t ∧ s.PassesA t a) ∧
      (s.iq = false → s.ia ≠ 0 → ((s.setPc (s.pcAfterA a)).setSp (s.spAfterA a)).allowsFrame = true →
        ∃ t, exec (.int a) s = .next t ∧
          ((s.setPc (s.pcAfterA a)).setSp (s.spAfterA a)).EntersHandler t (s.valueA a)) ∧
      (s.iq = false → s.ia ≠ 0 → ((s.setPc (s.pcAfterA a)).setSp (s.spAfterA a)).allowsFrame = false →
        exec (.int a) s = .fault .doubleFault)) ∧
    (s.allowsSource a = false →
      exec (.int a) s = raiseGpf .mem (s.pcAfterA a) (s.addCycles (s.userCycles (s.sourceAccesses a))))

/-- IAS and IAQ (R234, R238) in kernel mode: IA is a's value; queueing is on exactly if a's value is not 0. In user mode
GPFINS, by the spec's decisions D15 and D14 (60_exceptions.md R291, R292; log 14); the cycle kept then is the model's choice (log
7, DESIGN CHOICE). -/
def Obligations.InterruptControl : Prop :=
  ∀ (a : AOperand) (s : State), (Instr.ias a).firstWord = a.field ++ 0x0a#5 ++ 0#5 ∧
    (Instr.iaq a).firstWord = a.field ++ 0x0c#5 ++ 0#5 ∧
    (s.rm = 0 →
      (∃ t, exec (.ias a) s = .next t ∧ (s.setIa (s.valueA a)).PassesA t a) ∧
      (∃ t, exec (.iaq a) s = .next t ∧ (s.setIq (decide (s.valueA a ≠ 0))).PassesA t a)) ∧
    (s.rm ≠ 0 → ∀ i ∈ [Instr.ias a, .iaq a], exec i s = raiseGpf .ins (s.pcAfterA a) (s.addCycles 1))

/-- RFI (R236) in kernel mode: queueing off, A and PC popped, RM too once SRT has been called; the operand is evaluated and
its value ignored (the spec's decision D30). -/
def Obligations.RfiResult : Prop :=
  ∀ (a : AOperand) (s : State), (Instr.rfi a).firstWord = a.field ++ 0x0b#5 ++ 0#5 ∧
    (s.rm = 0 → ∃ t, exec (.rfi a) s = .next t ∧
      ((s.setIq false).setRm (if s.srtCalled then s.bank s.mb (s.spAfterA a + 2) else 0)).Leaves t
        (s.bank s.mb (s.spAfterA a + 1)) (s.spAfterA a + if s.srtCalled then 3 else 2) (.reg .a)
        (s.bank s.mb (s.spAfterA a)) none)

/-- HWN (48_hardware_instr.md R246) in kernel mode: a holds the number of connected devices. In user mode GPFINS, by the
spec's decisions D15 and D14 (60_exceptions.md R291, R292; log 14); the cycle kept then is the model's choice (log 7, DESIGN
CHOICE). -/
def Obligations.HwnResult : Prop :=
  ∀ (a : AOperand) (s : State), (Instr.hwn a).firstWord = a.field ++ 0x10#5 ++ 0#5 ∧
    (s.rm = 0 → s.devices.length ≤ 65535 →
      ∃ (t : State) (n : Word), exec (.hwn a) s = .next t ∧ n.toNat = s.devices.length ∧ s.SetsA t a n) ∧
    (s.rm ≠ 0 → exec (.hwn a) s = raiseGpf .ins (s.pcAfterA a) (s.addCycles 1))

/-- HWQ (R247) in kernel mode: A+(B<<16) is the device's id, C its version, X+(Y<<16) its manufacturer; nothing else
changes. With no such device it completes too, the five registers being free values (the spec's decision D27, log 6):
nothing is said of them. That number a is the place in the list, counted from 0 without gaps, is R245, from general knowledge
(log 25, PRESUMED). -/
def Obligations.HwqResult : Prop :=
  ∀ (a : AOperand) (s : State), (Instr.hwq a).firstWord = a.field ++ 0x11#5 ++ 0#5 ∧ (s.rm = 0 →
    (∀ d, s.devices[(s.valueA a).toNat]? = some d → ∃ t, exec (.hwq a) s = .next t ∧
      t.reg .b ++ t.reg .a = d.info.id ∧ t.reg .c = d.info.version ∧ t.reg .y ++ t.reg .x = d.info.manufacturer ∧
      t.reg .z = s.reg .z ∧ t.reg .i = s.reg .i ∧ t.reg .j = s.reg .j ∧
      ({ s with regs := t.regs } : State).PassesA t a) ∧
    (s.devices.length ≤ (s.valueA a).toNat → ∃ t, exec (.hwq a) s = .next t ∧
      t.reg .z = s.reg .z ∧ t.reg .i = s.reg .i ∧ t.reg .j = s.reg .j ∧
      ({ s with regs := t.regs, freeCount := t.freeCount } : State).PassesA t a))

/-- HWI (R248) in kernel mode: device a is marked as addressed and makes the changes of its answer, the next of the script, in
order, once pc has moved past the instruction; what a change does is a clause too. An answer with a change that
60_exceptions.md R303 does not allow is refused (log 5). No such device is the model fault `NoSuchDevice` (the spec's decision
D27, log 13). The model's own: the answers stand in a script of the state and are empty when it is used up (log 4), the limits
of R303 are applied to them (log 5), and device number a is the place in the list (R245, log 25, PRESUMED). -/
def Obligations.HwiResult : Prop :=
  ∀ (a : AOperand) (s : State), (Instr.hwi a).firstWord = a.field ++ 0x12#5 ++ 0#5 ∧
    (∀ w, s.Changed (s.deviceWrite w) w) ∧ (s.rm = 0 → ∀ answer : HwiAnswer,
      s.hwiAnswers.headD { extraCycles := 0, writes := [] } = answer →
      (∀ d, s.devices[(s.valueA a).toNat]? = some d → (∀ w ∈ answer.writes, d.info.Reaches w) →
        ∃ u, exec (.hwi a) s = .next (answer.writes.foldl State.deviceWrite u) ∧
          ((s.setDevices (s.devices.set (s.valueA a).toNat { d with hwiSeen := true })).setHwiAnswers
            s.hwiAnswers.tail).PassesA u a) ∧
      (∀ d, s.devices[(s.valueA a).toNat]? = some d → (∃ w ∈ answer.writes, ¬d.info.Reaches w) →
        exec (.hwi a) s = .refused .invalidDevice) ∧
      (s.devices.length ≤ (s.valueA a).toNat → exec (.hwi a) s = .fault .noSuchDevice))

/-- SRT (49_ring_instr.md R258, 20_memory.md R71 to R76) in kernel mode: the GPF message is captured, a page of a bank has
exactly the accesses that an entry of the GDT in bank 0 or of the bank's own LDT grants it, whatever was compiled before,
and nothing else changes. In user mode GPFINS. The layout and the walk of the tables are the spec's decisions D17 to D20, pc
after GPFINS is D14 (60_exceptions.md R292), all under log 14; the cycle GPFINS keeps is the model's choice (log 7, DESIGN
CHOICE). -/
def Obligations.SrtCompilesTables : Prop :=
  ∀ (a : AOperand) (s : State), (Instr.srt a).firstWord = a.field ++ 0x18#5 ++ 0#5 ∧
    (s.rm = 0 → ∃ t, exec (.srt a) s = .next t ∧
      (∀ (k : BankNo) (p : Nat) (x : Access), p < 256 →
        (t.perm.flags k p &&& x.flag ≠ 0 ↔ ∃ e, s.descriptorFor (s.valueA a) k e ∧ entryGrants e p x)) ∧
      ({ s with srtCalled := true, gdtMsg := s.bank 0 (s.valueA a), perm := t.perm } : State).PassesA t a) ∧
    (s.rm ≠ 0 → exec (.srt a) s = raiseGpf .ins (s.pcAfterA a) (s.addCycles 1))

/-! ## Cycles -/

/-- Cycle costs in kernel mode (70_reset_and_hazards.md R340 to R344): the instruction's own and one for each next word.
MBO takes 1, 9, 65 or 73; a conditional 2 when the test passes and 2 + k when k instructions are skipped; HWI 4 and what
the device takes. -/
def Obligations.CycleCosts : Prop :=
  ∀ (b : BOperand) (a : AOperand) (s t : State), s.rm = 0 →
    (∀ i ∈ [Instr.set b a, .and b a, .bor b a, .xor b a, .shr b a, .asr b a, .shl b a], exec i s = .next t →
      t.cycles = s.cycles + 1 + a.words + b.words) ∧
    (∀ i ∈ [Instr.add b a, .sub b a, .mul b a, .mli b a, .sti b a, .std b a], exec i s = .next t →
      t.cycles = s.cycles + 2 + a.words + b.words) ∧
    (∀ i ∈ [Instr.div b a, .dvi b a, .mod b a, .mdi b a, .adx b a, .sbx b a], exec i s = .next t →
      t.cycles = s.cycles + 3 + a.words + b.words) ∧
    (∀ p ∈ conditionals b a (s.valueB b a) (s.valueA a), exec p.1 s = .next t →
      (p.2 → t.cycles = s.cycles + 2 + a.words + b.words) ∧
      (¬p.2 → ∀ n, s.skipChainAt n (s.pcAfterAB b a) → t.cycles = s.cycles + 2 + (n + 1) + a.words + b.words)) ∧
    (∀ i ∈ [Instr.mbg a, .iag a, .ias a], exec i s = .next t → t.cycles = s.cycles + 1 + a.words) ∧
    (exec (.mbo a) s = .next t → t.cycles = s.cycles + 1 +
      (if (s.valueA a).extractLsb' 6 3 ≠ (s.valueA a).extractLsb' 3 3 then 64 else 0) +
      (if s.mb ≠ (s.valueA a).extractLsb' 0 3 then 8 else 0) + a.words) ∧
    (∀ i ∈ [Instr.iaq a, .hwn a, .grm a, .drm a], exec i s = .next t → t.cycles = s.cycles + 2 + a.words) ∧
    (∀ i ∈ [Instr.jsr a, .rfi a], exec i s = .next t → t.cycles = s.cycles + 3 + a.words) ∧
    (∀ i ∈ [Instr.int a, .hwq a, .srt a], exec i s = .next t → t.cycles = s.cycles + 4 + a.words) ∧
    (exec (.hwi a) s = .next t → t.cycles = s.cycles + 4 + s.hwiAnswer.extraCycles + a.words)

/-! ## Devices -/

/-- What the devices do in phase A (60_exceptions.md R270, R303 to R305, the spec's decision D27). If R303 and R304 allow every
act at the head of the script, and the queue has room for their messages, phase A completes, performs the acts in order and
moves the script on: the changes are made one after the other, each exactly the one it names, in the bank it names and
unchecked, and the messages are appended to the queue. An act that is not allowed is refused (log 5). Whatever the devices do,
they change no control register and no hidden field but the queue, which only grows; no bank but bank 0 unless a device's
documentation says so; nothing but the queue before the first HWI. The script is the model's own (log 4, log 21). -/
def Obligations.DevicePhaseConfined : Prop :=
  (∀ s : State, (∀ e ∈ s.deviceEvents.headD [], s.Allows e) →
    s.queue.length + (messages (s.deviceEvents.headD [])).length ≤ 256 →
    devicePhase s = .next { (changes (s.deviceEvents.headD [])).foldl State.deviceWrite s with
      queue := s.queue ++ messages (s.deviceEvents.headD []), deviceEvents := s.deviceEvents.tail }) ∧
  (∀ (s : State) (w : DeviceWrite), s.Changed (s.deviceWrite w) w) ∧
  (∀ s : State, (∃ e ∈ s.deviceEvents.headD [], ¬s.Allows e) →
    s.queue.length + (messages (s.deviceEvents.headD [])).length ≤ 256 → devicePhase s = .refused .invalidDevice) ∧
  (∀ s t : State, devicePhase s = .next t →
    t.ia = s.ia ∧ t.mb = s.mb ∧ t.rm = s.rm ∧ t.iq = s.iq ∧ t.srtCalled = s.srtCalled ∧ t.perm = s.perm ∧
    t.gdtMsg = s.gdtMsg ∧ t.onFire = s.onFire ∧ t.devices = s.devices ∧ (∃ ms, t.queue = s.queue ++ ms) ∧
    (∀ k w, t.bank k w ≠ s.bank k w →
      ∃ d ∈ s.devices, d.hwiSeen = true ∧ (k = 0 ∨ d.info.otherBanks = true)) ∧
    ((∀ d ∈ s.devices, d.hwiSeen = false) →
      t = { s with queue := t.queue, deviceEvents := s.deviceEvents.tail }))

/-- The connected devices are constant in a run (60_exceptions.md R306), and no device is ever unmarked. -/
def Obligations.DevicesConstant : Prop :=
  ∀ s t : State, step s = .next t →
    t.devices.map (fun d => d.info) = s.devices.map (fun d => d.info) ∧
    ∀ (n : Nat) (d e : Device), s.devices[n]? = some d → t.devices[n]? = some e → d.hwiSeen = true → e.hwiSeen = true

/-! ## What no instruction can do -/

/-- In user mode no instruction changes MB, IA, the compiled tables, the GPF message or the devices, turns queueing off, or
takes a message out of the queue (60_exceptions.md R285, R286; 10_state.md R29 to R31, R37). -/
def Obligations.UserModeConfined : Prop :=
  ∀ s t : State, s.rm ≠ 0 → instructionPhase s = .next t →
    t.mb = s.mb ∧ t.ia = s.ia ∧ t.perm = s.perm ∧ t.gdtMsg = s.gdtMsg ∧ t.srtCalled = s.srtCalled ∧
    t.devices = s.devices ∧ t.onFire = s.onFire ∧ (s.iq = true → t.iq = true) ∧
    (t.queue = s.queue ∨ ∃ m, t.queue = s.queue ++ [m])

/-- In user mode a word of memory changes only in the selected bank and only in a page with 'write' (20_memory.md R80, R82),
interrupt entry included. -/
def Obligations.UserModeWritesArePermitted : Prop :=
  ∀ (s t : State) (k : BankNo) (w : Word), s.rm ≠ 0 → instructionPhase s = .next t → t.bank k w ≠ s.bank k w →
    k = s.mb ∧ s.perm.flags s.mb (w.toNat / 256) &&& 0b010 ≠ 0

/-- Changing the ring mode (60_exceptions.md R287): an instruction leaves user mode only by interrupt entry in the long form,
and enters it only by DRM or by RFI once SRT has been called; the other phases of a step change RM only by entry. -/
def Obligations.RingModeChanges : Prop :=
  ∀ s t : State,
    (instructionPhase s = .next t → s.rm ≠ 0 → t.rm = 0 →
      s.srtCalled = true ∧ s.iq = false ∧ s.ia ≠ 0 ∧ t.pc = s.ia ∧ t.iq = true) ∧
    (instructionPhase s = .next t → s.rm = 0 → t.rm ≠ 0 →
      ∃ a, s.instrAtPc = .drm a ∨ (s.instrAtPc = .rfi a ∧ s.srtCalled = true)) ∧
    (devicePhase s = .next t → t.rm = s.rm) ∧
    (interruptPhase s = .next t → t.rm ≠ s.rm → s.srtCalled = true ∧ s.ia ≠ 0 ∧ t.rm = 0 ∧ t.pc = s.ia)

/-- "The selected bank changes only by MBO" (20_memory.md R62), IA only by IAS (10_state.md R29), the compiled tables only by
SRT (R37), each in kernel mode, over a whole step; `srt_called` is never cleared (R36). -/
def Obligations.ControlRegisterWriters : Prop :=
  ∀ s t : State, step s = .next t → ∃ u v, devicePhase s = .next u ∧ interruptPhase u = .next v ∧
    (t.mb ≠ s.mb → v.rm = 0 ∧ ∃ a, v.instrAtPc = .mbo a) ∧
    (t.ia ≠ s.ia → v.rm = 0 ∧ ∃ a, v.instrAtPc = .ias a) ∧
    (t.perm ≠ s.perm ∨ t.gdtMsg ≠ s.gdtMsg ∨ t.srtCalled ≠ s.srtCalled → v.rm = 0 ∧ ∃ a, v.instrAtPc = .srt a) ∧
    (s.srtCalled = true → t.srtCalled = true)

/-- EX changes only by the eleven instructions that set it, by an instruction whose destination is EX, or by the device of
an HWI (10_state.md R27; that MOD and MDI leave it alone is the spec's inference). -/
def Obligations.ExWriters : Prop :=
  ∀ (i : Instr) (s t : State), exec i s = .next t → t.ex ≠ s.ex →
    (∃ b a, i ∈ [Instr.add b a, .sub b a, .mul b a, .mli b a, .div b a, .dvi b a, .shr b a, .asr b a, .shl b a,
      .adx b a, .sbx b a]) ∨
    i.operandB = some (.op .ex) ∨ (∃ a, i = .hwi a) ∨
    i ∈ [Instr.mbg (.op .ex), .iag (.op .ex), .grm (.op .ex), .drm (.op .ex), .hwn (.op .ex)]

/-! ## Memory -/

/-- Memories in canonical form that list the same cells and hold the same words are the same data; a word read is the one
last written there, and a write changes no other word and lists no other cell. The cells are the model's choice (log 3); what
an unlisted one holds is a free value (log 2), and nothing is said of it. -/
def Obligations.MemoryIsItsWords : Prop :=
  (∀ m m' : Memory, m.wf → m'.wf → (∀ key, (m.listed key).isSome = (m'.listed key).isSome) →
    (∀ (k : BankNo) (w : Word), m.word k w = m'.word k w) → m = m') ∧
  (∀ (m : Memory) (k k' : BankNo) (w w' v : Word),
    (m.setWord k w v).word k' w' = if k' = k ∧ w' = w then v else m.word k' w') ∧
  (∀ (m : Memory) (k : BankNo) (w v : Word) (key : Nat), key ≠ cellKey k w → key ≠ cellKey k w + 1 →
    (m.setWord k w v).listed key = m.listed key)

/-! ## Cycles in user mode -/

/-- Cycle costs in user mode of instructions whose accesses are allowed: "in user mode, one more cycle per checked memory
access" (70_reset_and_hazards.md R344), the fetch of the first word and of every next word, data reads and writes, and the
pushes of an INT that enters the handler. That each checked access is one consultation is log 17. -/
def Obligations.CheckCosts : Prop :=
  ∀ (b : BOperand) (a : AOperand) (s t : State), s.rm ≠ 0 →
    (s.allowsMove b a = true →
      (exec (.set b a) s = .next t → t.cycles = s.cycles + 1 + s.userCycles (s.moveAccesses b a)) ∧
      (∀ i ∈ [Instr.sti b a, .std b a], exec i s = .next t →
        t.cycles = s.cycles + 2 + s.userCycles (s.moveAccesses b a))) ∧
    (s.allowsReadModifyWrite b a = true →
      (∀ i ∈ [Instr.and b a, .bor b a, .xor b a, .shr b a, .asr b a, .shl b a], exec i s = .next t →
        t.cycles = s.cycles + 1 + s.userCycles (s.readModifyWriteAccesses b a)) ∧
      (∀ i ∈ [Instr.add b a, .sub b a, .mul b a, .mli b a], exec i s = .next t →
        t.cycles = s.cycles + 2 + s.userCycles (s.readModifyWriteAccesses b a)) ∧
      (∀ i ∈ [Instr.div b a, .dvi b a, .mod b a, .mdi b a, .adx b a, .sbx b a], exec i s = .next t →
        t.cycles = s.cycles + 3 + s.userCycles (s.readModifyWriteAccesses b a))) ∧
    (s.allowsCompare b a = true → ∀ p ∈ conditionals b a (s.valueB b a) (s.valueA a), exec p.1 s = .next t →
      (p.2 → t.cycles = s.cycles + 2 + s.userCycles (s.compareAccesses b a)) ∧
      (¬p.2 → ∀ n, s.skipChainAt n (s.pcAfterAB b a) →
        t.cycles = s.cycles + 2 + s.userCycles (s.compareAccesses b a) + 2 * (n + 1))) ∧
    (s.allowsTarget a = true →
      (∀ i ∈ [Instr.mbg a, .iag a], exec i s = .next t →
        t.cycles = s.cycles + 1 + s.userCycles (s.targetAccesses a)) ∧
      (∀ i ∈ [Instr.grm a, .drm a], exec i s = .next t →
        t.cycles = s.cycles + 2 + s.userCycles (s.targetAccesses a))) ∧
    (s.allowsSource a = true → s.permits .write (s.spAfterA a - 1) = true → exec (.jsr a) s = .next t →
      t.cycles = s.cycles + 3 + s.userCycles (s.jsrAccesses a)) ∧
    (s.allowsSource a = true → exec (.int a) s = .next t →
      ((s.iq = true ∨ s.ia = 0) → t.cycles = s.cycles + 4 + s.userCycles (s.sourceAccesses a)) ∧
      (s.iq = false → s.ia ≠ 0 →
        t.cycles = s.cycles + 4 + s.userCycles (s.sourceAccesses a) + if s.srtCalled then 3 else 2))

end Statements
end

