-- ==== Sys2Proof/Laws/Memory.lean ====
section
/-! SUPPORT. The laws of the sparse maps, of the banks and of the compiled tables: read after write, and the canonical
form kept by every operation. -/

namespace Sys2Proof.Machine

/-! ## Sparse maps -/

section Sparse

variable {α : Type}

theorem Sparse.find_insert (k : Nat) (v : α) (l : List (Nat × α)) (h : ∀ c ∈ l, c.1 ≠ k) (j : Nat) :
    Sparse.find (Sparse.insert k v l) j = if j = k then some v else Sparse.find l j := by
  induction l with
  | nil => simp [Sparse.insert, Sparse.find, eq_comm]
  | cons c rest ih =>
    obtain ⟨i, w⟩ := c
    have hik : i ≠ k := h (i, w) (by simp)
    have ih' := ih (fun c hc => h c (by simp [hc]))
    unfold Sparse.insert
    split
    · simp [Sparse.find, eq_comm]
    · simp only [Sparse.find, ih']
      by_cases hij : i = j
      · subst hij; simp [hik]
      · simp [hij]

theorem Sparse.find_erase (k : Nat) (l : List (Nat × α)) (j : Nat) :
    Sparse.find (Sparse.erase k l) j = if j = k then none else Sparse.find l j := by
  unfold Sparse.erase
  induction l with
  | nil => simp [Sparse.find]
  | cons c rest ih =>
    obtain ⟨i, w⟩ := c
    by_cases hik : i = k
    · subst hik
      simp only [List.filter_cons, ne_eq, not_true_eq_false, decide_false, Bool.false_eq_true, if_false, Sparse.find]
      rw [ih]
      by_cases hj : j = i
      · simp [hj]
      · simp [hj, Ne.symm hj]
    · simp only [List.filter_cons, ne_eq, hik, not_false_eq_true, decide_true, if_true, Sparse.find]
      rw [ih]
      by_cases hij : i = j
      · subst hij; simp [hik]
      · simp [hij]

theorem Sparse.erase_ne {k : Nat} {l : List (Nat × α)} : ∀ c ∈ Sparse.erase k l, c.1 ≠ k :=
  fun _ hc => by simpa using (List.mem_filter.1 hc).2

/-- Lookup after a put, for every list. -/
theorem Sparse.find_put (l : List (Nat × α)) (k j : Nat) (v : α) :
    Sparse.find (Sparse.put l k v) j = if j = k then some v else Sparse.find l j := by
  unfold Sparse.put
  rw [Sparse.find_insert _ _ _ Sparse.erase_ne, Sparse.find_erase]
  by_cases hj : j = k <;> simp [hj]

/-- Read after write, for every list. -/
theorem Sparse.read_write [DecidableEq α] (d : α) (l : List (Nat × α)) (k j : Nat) (v : α) :
    Sparse.read d (Sparse.write d l k v) j = if j = k then v else Sparse.read d l j := by
  unfold Sparse.write Sparse.read
  by_cases hv : v = d
  · rw [if_pos hv, Sparse.find_erase]; by_cases hj : j = k <;> simp [hj, hv]
  · rw [if_neg hv, Sparse.find_put]; by_cases hj : j = k <;> simp [hj]

theorem Sparse.mem_insert (k : Nat) (v : α) (l : List (Nat × α)) (c : Nat × α) :
    c ∈ Sparse.insert k v l ↔ c = (k, v) ∨ c ∈ l := by
  induction l with
  | nil => simp [Sparse.insert]
  | cons e rest ih =>
    obtain ⟨i, w⟩ := e
    unfold Sparse.insert
    split
    · simp
    · simp only [List.mem_cons, ih]; tauto

theorem Sparse.insert_pairwise (k : Nat) (v : α) (l : List (Nat × α)) (hk : ∀ c ∈ l, c.1 ≠ k)
    (h : l.Pairwise (fun x y => x.1 < y.1)) : (Sparse.insert k v l).Pairwise (fun x y => x.1 < y.1) := by
  induction l with
  | nil => simp [Sparse.insert]
  | cons e rest ih =>
    obtain ⟨i, w⟩ := e
    rw [List.pairwise_cons] at h
    have hik : i ≠ k := hk (i, w) (by simp)
    unfold Sparse.insert
    split
    · next hlt =>
      refine List.pairwise_cons.2 ⟨?_, List.pairwise_cons.2 h⟩
      intro c hc
      rcases List.mem_cons.1 hc with rfl | hc
      · exact hlt
      · exact lt_trans hlt (h.1 c hc)
    · next hlt =>
      refine List.pairwise_cons.2 ⟨?_, ih (fun c hc => hk c (by simp [hc])) h.2⟩
      intro c hc
      rcases (Sparse.mem_insert k v rest c).1 hc with rfl | hc
      · show i < k; omega
      · exact h.1 c hc

theorem Sparse.erase_rising {bound : Nat} {l : List (Nat × α)} (h : Sparse.Rising bound l) (k : Nat) :
    Sparse.Rising bound (Sparse.erase k l) :=
  ⟨h.1.filter _, fun c hm => h.2 c (List.mem_filter.1 hm).1⟩

/-- A put keeps the keys rising. -/
theorem Sparse.put_rising {bound : Nat} {l : List (Nat × α)} (h : Sparse.Rising bound l) {k : Nat} (hk : k < bound)
    (v : α) : Sparse.Rising bound (Sparse.put l k v) := by
  have h' := Sparse.erase_rising h k
  refine ⟨Sparse.insert_pairwise k v _ Sparse.erase_ne h'.1, fun c hm => ?_⟩
  rcases (Sparse.mem_insert k v _ c).1 hm with rfl | hm
  · exact hk
  · exact h'.2 c hm

/-- A write keeps the canonical form. -/
theorem Sparse.write_wf [DecidableEq α] {d : α} {bound : Nat} {l : List (Nat × α)} (h : Sparse.WF d bound l)
    {k : Nat} (hk : k < bound) (v : α) : Sparse.WF d bound (Sparse.write d l k v) := by
  have hd : ∀ c ∈ Sparse.erase k l, c.2 ≠ d := fun c hm => h.2 c (List.mem_filter.1 hm).1
  unfold Sparse.write
  split
  · exact ⟨Sparse.erase_rising h.1 k, hd⟩
  · next hv =>
    refine ⟨Sparse.put_rising h.1 hk v, fun c hm => ?_⟩
    rcases (Sparse.mem_insert k v _ c).1 hm with rfl | hm
    · exact hv
    · exact hd c hm

/-- In a list with rising keys lookup finds exactly the cells. -/
theorem Sparse.find_eq_some {l : List (Nat × α)} (hp : l.Pairwise (fun x y => x.1 < y.1)) (k : Nat) (v : α) :
    Sparse.find l k = some v ↔ (k, v) ∈ l := by
  induction l with
  | nil => simp [Sparse.find]
  | cons e rest ih =>
    obtain ⟨i, w⟩ := e
    rw [List.pairwise_cons] at hp
    unfold Sparse.find
    split
    · next hik =>
      subst hik
      simp only [Option.some.injEq, List.mem_cons, Prod.mk.injEq, true_and]
      constructor
      · exact fun h => Or.inl h.symm
      · rintro (h | h)
        · exact h.symm
        · exact absurd (hp.1 _ h) (Nat.lt_irrefl _)
    · next hik =>
      rw [ih hp.2]
      simp [Ne.symm hik]

/-- Lists with rising keys that look alike everywhere are the same. -/
theorem Sparse.ext {l l' : List (Nat × α)} (hp : l.Pairwise (fun x y => x.1 < y.1))
    (hp' : l'.Pairwise (fun x y => x.1 < y.1)) (h : ∀ k, Sparse.find l k = Sparse.find l' k) : l = l' := by
  have hm : ∀ c, c ∈ l ↔ c ∈ l' := fun c => by
    rw [← Sparse.find_eq_some hp c.1 c.2, ← Sparse.find_eq_some hp' c.1 c.2, h]
  have nd : ∀ {l : List (Nat × α)}, l.Pairwise (fun x y => x.1 < y.1) → l.Nodup :=
    fun hp => hp.imp (fun {x y} hxy e => by subst e; exact Nat.lt_irrefl _ hxy)
  refine List.Perm.eq_of_pairwise (le := fun x y => x.1 < y.1) (fun x y _ _ h1 h2 => ?_) hp hp'
    ((List.perm_ext_iff_of_nodup (nd hp) (nd hp')).2 hm)
  exact absurd (Nat.lt_trans h1 h2) (Nat.lt_irrefl _)

end Sparse

/-! ## Banks -/

theorem cellKey_inj {k k' : BankNo} {w w' : Word} : cellKey k w = cellKey k' w' ↔ k = k' ∧ w = w' := by
  constructor
  · intro h
    have h1 := w.isLt; have h2 := w'.isLt
    have : Config.bankWords * k.toNat + w.toNat = Config.bankWords * k'.toNat + w'.toNat := by
      unfold cellKey at h; omega
    unfold Config.bankWords at this
    exact ⟨BitVec.eq_of_toNat_eq (by omega), BitVec.eq_of_toNat_eq (by omega)⟩
  · rintro ⟨rfl, rfl⟩; rfl

theorem cellKey_ne_succ (k k' : BankNo) (w w' : Word) : cellKey k w ≠ cellKey k' w' + 1 := by
  unfold cellKey; omega

theorem cellKey_lt (k : BankNo) (w : Word) : cellKey k w + 1 < Memory.cells := by
  have h1 := w.isLt; have h2 := k.isLt
  unfold cellKey Memory.cells Config.bankWords Config.banks; omega

theorem Memory.listed_setByte (m : Memory) (k j : Nat) (v : Byte) :
    (m.setByte k v).listed j = if j = k then some v else m.listed j := Sparse.find_put _ _ _ _

/-- What a cell reads as: what is listed, or the free value of the initial image. -/
theorem Memory.byte_eq (m : Memory) (k : Nat) : m.byte k = (m.listed k).getD (Config.initialByte k) := rfl

theorem Memory.byte_setByte (m : Memory) (k j : Nat) (v : Byte) :
    (m.setByte k v).byte j = if j = k then v else m.byte j := by
  rw [Memory.byte_eq, Memory.listed_setByte]; split <;> rfl

theorem Memory.setByte_wf {m : Memory} (h : m.wf) {k : Nat} (hk : k < Memory.cells) (v : Byte) : (m.setByte k v).wf :=
  Sparse.put_rising h hk v

/-- Read after write, for every memory. -/
theorem Memory.word_setWord (m : Memory) (k k' : BankNo) (w w' v : Word) :
    (m.setWord k w v).word k' w' = if k' = k ∧ w' = w then v else m.word k' w' := by
  unfold Memory.word Memory.setWord
  simp only [Memory.byte_setByte]
  have hne : ∀ a b c d, cellKey a b + 1 ≠ cellKey c d := fun a b c d h => cellKey_ne_succ c a d b h.symm
  by_cases h : k' = k ∧ w' = w
  · obtain ⟨rfl, rfl⟩ := h
    rw [if_pos rfl, if_neg (cellKey_ne_succ _ _ _ _), if_pos rfl, if_pos ⟨rfl, rfl⟩]
    ext i hi
    simp only [BitVec.getElem_append, BitVec.getElem_extractLsb']
    split
    · simp [← BitVec.getLsbD_eq_getElem]
    · rw [← BitVec.getLsbD_eq_getElem]
      congr 1; omega
  · have hk : cellKey k' w' ≠ cellKey k w := fun e => h (cellKey_inj.1 e)
    simp [h, hk, cellKey_ne_succ, hne]

@[simp] theorem Memory.word_setWord_self (m : Memory) (k : BankNo) (w v : Word) : (m.setWord k w v).word k w = v := by
  simp [Memory.word_setWord]

theorem Memory.setWord_wf {m : Memory} (h : m.wf) (k : BankNo) (w v : Word) : (m.setWord k w v).wf :=
  Memory.setByte_wf (Memory.setByte_wf h (Nat.lt_of_succ_lt (cellKey_lt k w)) _) (cellKey_lt k w) _

/-- A copy keeps the canonical form. -/
theorem Memory.copy_wf (s d : BankNo) (n : Nat) : ∀ (w : Word) (m : Memory), m.wf → (Memory.copy s d n w m).wf := by
  induction n with
  | zero => intro w m h; exact h
  | succ n ih => intro w m h; exact ih _ _ (Memory.setWord_wf h _ _ _)

/-- What a copy does to every word. -/
theorem Memory.word_copy (s d : BankNo) (n : Nat) : ∀ (w : Word) (m : Memory) (k : BankNo) (a : Word),
    w.toNat + n ≤ 65536 →
      (Memory.copy s d n w m).word k a =
        if k = d ∧ w.toNat ≤ a.toNat ∧ a.toNat < w.toNat + n then m.word s a else m.word k a := by
  induction n with
  | zero => intro w m k a _; simp [Memory.copy]
  | succ n ih =>
    intro w m k a hn
    unfold Memory.copy
    by_cases hn0 : n = 0
    · subst hn0
      have : (w.toNat ≤ a.toNat ∧ a.toNat < w.toNat + (0 + 1)) ↔ a = w :=
        ⟨fun h => BitVec.eq_of_toNat_eq (by omega), fun h => by subst h; omega⟩
      simp only [Memory.copy, Memory.word_setWord, this]
      by_cases h : k = d ∧ a = w
      · obtain ⟨rfl, rfl⟩ := h; simp
      · simp [h]
    · have hw : (w + 1).toNat = w.toNat + 1 := by
        rw [BitVec.toNat_add]; simp; omega
      rw [ih _ _ _ _ (by omega), hw]
      simp only [Memory.word_setWord]
      by_cases ha : a = w
      · subst ha
        by_cases hk : k = d <;> simp [hk]
      · have : a.toNat ≠ w.toNat := fun e => ha (BitVec.eq_of_toNat_eq e)
        have e : (w.toNat + 1 ≤ a.toNat ∧ a.toNat < w.toNat + 1 + n) ↔
            (w.toNat ≤ a.toNat ∧ a.toNat < w.toNat + (n + 1)) := by omega
        simp only [e, ha, and_false, if_false]

/-! ## Compiled tables -/

theorem pageKey_inj {k k' : BankNo} {p p' : Nat} (hp : p < Config.pages) (hp' : p' < Config.pages) :
    pageKey k p = pageKey k' p' ↔ k = k' ∧ p = p' := by
  unfold pageKey Config.pages at *
  constructor
  · intro h
    exact ⟨BitVec.eq_of_toNat_eq (by omega), by omega⟩
  · rintro ⟨rfl, rfl⟩; rfl

theorem PermTable.flags_grant (t : PermTable) (k k' : BankNo) {p p' : Nat} (hp : p < Config.pages)
    (hp' : p' < Config.pages) (f : Flags) :
    (t.grant k p f).flags k' p' = if k' = k ∧ p' = p then t.flags k p ||| f else t.flags k' p' := by
  unfold PermTable.grant
  simp only [PermTable.flags, Sparse.read_write, pageKey_inj hp' hp]

theorem PermTable.grant_wf {t : PermTable} (h : t.wf) (k : BankNo) {p : Nat} (hp : p < Config.pages) (f : Flags) :
    (t.grant k p f).wf := by
  refine Sparse.write_wf h ?_ _
  have := k.isLt
  unfold pageKey Config.banks Config.pages at *; omega

end Sys2Proof.Machine
end

