-- ==== Sys2Proof/Laws/State.lean ====
section
/-! SUPPORT. What each update of the state does to each field, so that no later proof unfolds a record update. -/

namespace Sys2Proof.Machine

variable (s : State)

/-! ## Registers -/

theorem Regs.get_set (g : Regs) (r q : Reg) (v : Word) : (g.set r v).get q = if q = r then v else g.get q := by
  cases r <;> cases q <;> rfl

@[simp] theorem Regs.get_set_self (g : Regs) (r : Reg) (v : Word) : (g.set r v).get r = v := by
  cases r <;> rfl

theorem State.reg_def (r : Reg) : s.reg r = s.regs.get r := rfl

theorem State.reg_setReg (r q : Reg) (v : Word) : (s.setReg r v).reg q = if q = r then v else s.reg q :=
  Regs.get_set s.regs r q v

@[simp] theorem State.reg_setReg_self (r : Reg) (v : Word) : (s.setReg r v).reg r = v :=
  Regs.get_set_self s.regs r v

/-! ## setReg -/

@[simp] theorem State.setReg_regs (r : Reg) (v : Word) : (s.setReg r v).regs = s.regs.set r v := rfl
@[simp] theorem State.setReg_pc (r : Reg) (v : Word) : (s.setReg r v).pc = s.pc := rfl
@[simp] theorem State.setReg_sp (r : Reg) (v : Word) : (s.setReg r v).sp = s.sp := rfl
@[simp] theorem State.setReg_ex (r : Reg) (v : Word) : (s.setReg r v).ex = s.ex := rfl
@[simp] theorem State.setReg_ia (r : Reg) (v : Word) : (s.setReg r v).ia = s.ia := rfl
@[simp] theorem State.setReg_mb (r : Reg) (v : Word) : (s.setReg r v).mb = s.mb := rfl
@[simp] theorem State.setReg_rm (r : Reg) (v : Word) : (s.setReg r v).rm = s.rm := rfl
@[simp] theorem State.setReg_mem (r : Reg) (v : Word) : (s.setReg r v).mem = s.mem := rfl
@[simp] theorem State.setReg_iq (r : Reg) (v : Word) : (s.setReg r v).iq = s.iq := rfl
@[simp] theorem State.setReg_queue (r : Reg) (v : Word) : (s.setReg r v).queue = s.queue := rfl
@[simp] theorem State.setReg_srtCalled (r : Reg) (v : Word) : (s.setReg r v).srtCalled = s.srtCalled := rfl
@[simp] theorem State.setReg_perm (r : Reg) (v : Word) : (s.setReg r v).perm = s.perm := rfl
@[simp] theorem State.setReg_gdtMsg (r : Reg) (v : Word) : (s.setReg r v).gdtMsg = s.gdtMsg := rfl
@[simp] theorem State.setReg_onFire (r : Reg) (v : Word) : (s.setReg r v).onFire = s.onFire := rfl
@[simp] theorem State.setReg_devices (r : Reg) (v : Word) : (s.setReg r v).devices = s.devices := rfl
@[simp] theorem State.setReg_deviceEvents (r : Reg) (v : Word) : (s.setReg r v).deviceEvents = s.deviceEvents := rfl
@[simp] theorem State.setReg_hwiAnswers (r : Reg) (v : Word) : (s.setReg r v).hwiAnswers = s.hwiAnswers := rfl
@[simp] theorem State.setReg_freeCount (r : Reg) (v : Word) : (s.setReg r v).freeCount = s.freeCount := rfl
@[simp] theorem State.setReg_cycles (r : Reg) (v : Word) : (s.setReg r v).cycles = s.cycles := rfl
@[simp] theorem State.setReg_bank (r : Reg) (v : Word) (k : BankNo) (w : Word) : (s.setReg r v).bank k w = s.bank k w := rfl
@[simp] theorem State.setReg_userMode (r : Reg) (v : Word) : (s.setReg r v).userMode = s.userMode := rfl
@[simp] theorem State.setReg_permits (r : Reg) (v : Word) (x : Access) (addr : Word) :
    (s.setReg r v).permits x addr = s.permits x addr := rfl

/-! ## setPc -/

@[simp] theorem State.setPc_regs (v : Word) : (s.setPc v).regs = s.regs := rfl
@[simp] theorem State.setPc_pc (v : Word) : (s.setPc v).pc = v := rfl
@[simp] theorem State.setPc_sp (v : Word) : (s.setPc v).sp = s.sp := rfl
@[simp] theorem State.setPc_ex (v : Word) : (s.setPc v).ex = s.ex := rfl
@[simp] theorem State.setPc_ia (v : Word) : (s.setPc v).ia = s.ia := rfl
@[simp] theorem State.setPc_mb (v : Word) : (s.setPc v).mb = s.mb := rfl
@[simp] theorem State.setPc_rm (v : Word) : (s.setPc v).rm = s.rm := rfl
@[simp] theorem State.setPc_mem (v : Word) : (s.setPc v).mem = s.mem := rfl
@[simp] theorem State.setPc_iq (v : Word) : (s.setPc v).iq = s.iq := rfl
@[simp] theorem State.setPc_queue (v : Word) : (s.setPc v).queue = s.queue := rfl
@[simp] theorem State.setPc_srtCalled (v : Word) : (s.setPc v).srtCalled = s.srtCalled := rfl
@[simp] theorem State.setPc_perm (v : Word) : (s.setPc v).perm = s.perm := rfl
@[simp] theorem State.setPc_gdtMsg (v : Word) : (s.setPc v).gdtMsg = s.gdtMsg := rfl
@[simp] theorem State.setPc_onFire (v : Word) : (s.setPc v).onFire = s.onFire := rfl
@[simp] theorem State.setPc_devices (v : Word) : (s.setPc v).devices = s.devices := rfl
@[simp] theorem State.setPc_deviceEvents (v : Word) : (s.setPc v).deviceEvents = s.deviceEvents := rfl
@[simp] theorem State.setPc_hwiAnswers (v : Word) : (s.setPc v).hwiAnswers = s.hwiAnswers := rfl
@[simp] theorem State.setPc_freeCount (v : Word) : (s.setPc v).freeCount = s.freeCount := rfl
@[simp] theorem State.setPc_cycles (v : Word) : (s.setPc v).cycles = s.cycles := rfl
@[simp] theorem State.setPc_reg (v : Word) (r : Reg) : (s.setPc v).reg r = s.reg r := rfl
@[simp] theorem State.setPc_bank (v : Word) (k : BankNo) (w : Word) : (s.setPc v).bank k w = s.bank k w := rfl
@[simp] theorem State.setPc_userMode (v : Word) : (s.setPc v).userMode = s.userMode := rfl
@[simp] theorem State.setPc_permits (v : Word) (x : Access) (addr : Word) :
    (s.setPc v).permits x addr = s.permits x addr := rfl

/-! ## setSp -/

@[simp] theorem State.setSp_regs (v : Word) : (s.setSp v).regs = s.regs := rfl
@[simp] theorem State.setSp_pc (v : Word) : (s.setSp v).pc = s.pc := rfl
@[simp] theorem State.setSp_sp (v : Word) : (s.setSp v).sp = v := rfl
@[simp] theorem State.setSp_ex (v : Word) : (s.setSp v).ex = s.ex := rfl
@[simp] theorem State.setSp_ia (v : Word) : (s.setSp v).ia = s.ia := rfl
@[simp] theorem State.setSp_mb (v : Word) : (s.setSp v).mb = s.mb := rfl
@[simp] theorem State.setSp_rm (v : Word) : (s.setSp v).rm = s.rm := rfl
@[simp] theorem State.setSp_mem (v : Word) : (s.setSp v).mem = s.mem := rfl
@[simp] theorem State.setSp_iq (v : Word) : (s.setSp v).iq = s.iq := rfl
@[simp] theorem State.setSp_queue (v : Word) : (s.setSp v).queue = s.queue := rfl
@[simp] theorem State.setSp_srtCalled (v : Word) : (s.setSp v).srtCalled = s.srtCalled := rfl
@[simp] theorem State.setSp_perm (v : Word) : (s.setSp v).perm = s.perm := rfl
@[simp] theorem State.setSp_gdtMsg (v : Word) : (s.setSp v).gdtMsg = s.gdtMsg := rfl
@[simp] theorem State.setSp_onFire (v : Word) : (s.setSp v).onFire = s.onFire := rfl
@[simp] theorem State.setSp_devices (v : Word) : (s.setSp v).devices = s.devices := rfl
@[simp] theorem State.setSp_deviceEvents (v : Word) : (s.setSp v).deviceEvents = s.deviceEvents := rfl
@[simp] theorem State.setSp_hwiAnswers (v : Word) : (s.setSp v).hwiAnswers = s.hwiAnswers := rfl
@[simp] theorem State.setSp_freeCount (v : Word) : (s.setSp v).freeCount = s.freeCount := rfl
@[simp] theorem State.setSp_cycles (v : Word) : (s.setSp v).cycles = s.cycles := rfl
@[simp] theorem State.setSp_reg (v : Word) (r : Reg) : (s.setSp v).reg r = s.reg r := rfl
@[simp] theorem State.setSp_bank (v : Word) (k : BankNo) (w : Word) : (s.setSp v).bank k w = s.bank k w := rfl
@[simp] theorem State.setSp_userMode (v : Word) : (s.setSp v).userMode = s.userMode := rfl
@[simp] theorem State.setSp_permits (v : Word) (x : Access) (addr : Word) :
    (s.setSp v).permits x addr = s.permits x addr := rfl

/-! ## setEx -/

@[simp] theorem State.setEx_regs (v : Word) : (s.setEx v).regs = s.regs := rfl
@[simp] theorem State.setEx_pc (v : Word) : (s.setEx v).pc = s.pc := rfl
@[simp] theorem State.setEx_sp (v : Word) : (s.setEx v).sp = s.sp := rfl
@[simp] theorem State.setEx_ex (v : Word) : (s.setEx v).ex = v := rfl
@[simp] theorem State.setEx_ia (v : Word) : (s.setEx v).ia = s.ia := rfl
@[simp] theorem State.setEx_mb (v : Word) : (s.setEx v).mb = s.mb := rfl
@[simp] theorem State.setEx_rm (v : Word) : (s.setEx v).rm = s.rm := rfl
@[simp] theorem State.setEx_mem (v : Word) : (s.setEx v).mem = s.mem := rfl
@[simp] theorem State.setEx_iq (v : Word) : (s.setEx v).iq = s.iq := rfl
@[simp] theorem State.setEx_queue (v : Word) : (s.setEx v).queue = s.queue := rfl
@[simp] theorem State.setEx_srtCalled (v : Word) : (s.setEx v).srtCalled = s.srtCalled := rfl
@[simp] theorem State.setEx_perm (v : Word) : (s.setEx v).perm = s.perm := rfl
@[simp] theorem State.setEx_gdtMsg (v : Word) : (s.setEx v).gdtMsg = s.gdtMsg := rfl
@[simp] theorem State.setEx_onFire (v : Word) : (s.setEx v).onFire = s.onFire := rfl
@[simp] theorem State.setEx_devices (v : Word) : (s.setEx v).devices = s.devices := rfl
@[simp] theorem State.setEx_deviceEvents (v : Word) : (s.setEx v).deviceEvents = s.deviceEvents := rfl
@[simp] theorem State.setEx_hwiAnswers (v : Word) : (s.setEx v).hwiAnswers = s.hwiAnswers := rfl
@[simp] theorem State.setEx_freeCount (v : Word) : (s.setEx v).freeCount = s.freeCount := rfl
@[simp] theorem State.setEx_cycles (v : Word) : (s.setEx v).cycles = s.cycles := rfl
@[simp] theorem State.setEx_reg (v : Word) (r : Reg) : (s.setEx v).reg r = s.reg r := rfl
@[simp] theorem State.setEx_bank (v : Word) (k : BankNo) (w : Word) : (s.setEx v).bank k w = s.bank k w := rfl
@[simp] theorem State.setEx_userMode (v : Word) : (s.setEx v).userMode = s.userMode := rfl
@[simp] theorem State.setEx_permits (v : Word) (x : Access) (addr : Word) :
    (s.setEx v).permits x addr = s.permits x addr := rfl

/-! ## setIa -/

@[simp] theorem State.setIa_regs (v : Word) : (s.setIa v).regs = s.regs := rfl
@[simp] theorem State.setIa_pc (v : Word) : (s.setIa v).pc = s.pc := rfl
@[simp] theorem State.setIa_sp (v : Word) : (s.setIa v).sp = s.sp := rfl
@[simp] theorem State.setIa_ex (v : Word) : (s.setIa v).ex = s.ex := rfl
@[simp] theorem State.setIa_ia (v : Word) : (s.setIa v).ia = v := rfl
@[simp] theorem State.setIa_mb (v : Word) : (s.setIa v).mb = s.mb := rfl
@[simp] theorem State.setIa_rm (v : Word) : (s.setIa v).rm = s.rm := rfl
@[simp] theorem State.setIa_mem (v : Word) : (s.setIa v).mem = s.mem := rfl
@[simp] theorem State.setIa_iq (v : Word) : (s.setIa v).iq = s.iq := rfl
@[simp] theorem State.setIa_queue (v : Word) : (s.setIa v).queue = s.queue := rfl
@[simp] theorem State.setIa_srtCalled (v : Word) : (s.setIa v).srtCalled = s.srtCalled := rfl
@[simp] theorem State.setIa_perm (v : Word) : (s.setIa v).perm = s.perm := rfl
@[simp] theorem State.setIa_gdtMsg (v : Word) : (s.setIa v).gdtMsg = s.gdtMsg := rfl
@[simp] theorem State.setIa_onFire (v : Word) : (s.setIa v).onFire = s.onFire := rfl
@[simp] theorem State.setIa_devices (v : Word) : (s.setIa v).devices = s.devices := rfl
@[simp] theorem State.setIa_deviceEvents (v : Word) : (s.setIa v).deviceEvents = s.deviceEvents := rfl
@[simp] theorem State.setIa_hwiAnswers (v : Word) : (s.setIa v).hwiAnswers = s.hwiAnswers := rfl
@[simp] theorem State.setIa_freeCount (v : Word) : (s.setIa v).freeCount = s.freeCount := rfl
@[simp] theorem State.setIa_cycles (v : Word) : (s.setIa v).cycles = s.cycles := rfl
@[simp] theorem State.setIa_reg (v : Word) (r : Reg) : (s.setIa v).reg r = s.reg r := rfl
@[simp] theorem State.setIa_bank (v : Word) (k : BankNo) (w : Word) : (s.setIa v).bank k w = s.bank k w := rfl
@[simp] theorem State.setIa_userMode (v : Word) : (s.setIa v).userMode = s.userMode := rfl
@[simp] theorem State.setIa_permits (v : Word) (x : Access) (addr : Word) :
    (s.setIa v).permits x addr = s.permits x addr := rfl

/-! ## setMb -/

@[simp] theorem State.setMb_regs (v : BankNo) : (s.setMb v).regs = s.regs := rfl
@[simp] theorem State.setMb_pc (v : BankNo) : (s.setMb v).pc = s.pc := rfl
@[simp] theorem State.setMb_sp (v : BankNo) : (s.setMb v).sp = s.sp := rfl
@[simp] theorem State.setMb_ex (v : BankNo) : (s.setMb v).ex = s.ex := rfl
@[simp] theorem State.setMb_ia (v : BankNo) : (s.setMb v).ia = s.ia := rfl
@[simp] theorem State.setMb_mb (v : BankNo) : (s.setMb v).mb = v := rfl
@[simp] theorem State.setMb_rm (v : BankNo) : (s.setMb v).rm = s.rm := rfl
@[simp] theorem State.setMb_mem (v : BankNo) : (s.setMb v).mem = s.mem := rfl
@[simp] theorem State.setMb_iq (v : BankNo) : (s.setMb v).iq = s.iq := rfl
@[simp] theorem State.setMb_queue (v : BankNo) : (s.setMb v).queue = s.queue := rfl
@[simp] theorem State.setMb_srtCalled (v : BankNo) : (s.setMb v).srtCalled = s.srtCalled := rfl
@[simp] theorem State.setMb_perm (v : BankNo) : (s.setMb v).perm = s.perm := rfl
@[simp] theorem State.setMb_gdtMsg (v : BankNo) : (s.setMb v).gdtMsg = s.gdtMsg := rfl
@[simp] theorem State.setMb_onFire (v : BankNo) : (s.setMb v).onFire = s.onFire := rfl
@[simp] theorem State.setMb_devices (v : BankNo) : (s.setMb v).devices = s.devices := rfl
@[simp] theorem State.setMb_deviceEvents (v : BankNo) : (s.setMb v).deviceEvents = s.deviceEvents := rfl
@[simp] theorem State.setMb_hwiAnswers (v : BankNo) : (s.setMb v).hwiAnswers = s.hwiAnswers := rfl
@[simp] theorem State.setMb_freeCount (v : BankNo) : (s.setMb v).freeCount = s.freeCount := rfl
@[simp] theorem State.setMb_cycles (v : BankNo) : (s.setMb v).cycles = s.cycles := rfl
@[simp] theorem State.setMb_reg (v : BankNo) (r : Reg) : (s.setMb v).reg r = s.reg r := rfl
@[simp] theorem State.setMb_bank (v : BankNo) (k : BankNo) (w : Word) : (s.setMb v).bank k w = s.bank k w := rfl
@[simp] theorem State.setMb_userMode (v : BankNo) : (s.setMb v).userMode = s.userMode := rfl

/-! ## setRm -/

@[simp] theorem State.setRm_regs (v : Word) : (s.setRm v).regs = s.regs := rfl
@[simp] theorem State.setRm_pc (v : Word) : (s.setRm v).pc = s.pc := rfl
@[simp] theorem State.setRm_sp (v : Word) : (s.setRm v).sp = s.sp := rfl
@[simp] theorem State.setRm_ex (v : Word) : (s.setRm v).ex = s.ex := rfl
@[simp] theorem State.setRm_ia (v : Word) : (s.setRm v).ia = s.ia := rfl
@[simp] theorem State.setRm_mb (v : Word) : (s.setRm v).mb = s.mb := rfl
@[simp] theorem State.setRm_rm (v : Word) : (s.setRm v).rm = v := rfl
@[simp] theorem State.setRm_mem (v : Word) : (s.setRm v).mem = s.mem := rfl
@[simp] theorem State.setRm_iq (v : Word) : (s.setRm v).iq = s.iq := rfl
@[simp] theorem State.setRm_queue (v : Word) : (s.setRm v).queue = s.queue := rfl
@[simp] theorem State.setRm_srtCalled (v : Word) : (s.setRm v).srtCalled = s.srtCalled := rfl
@[simp] theorem State.setRm_perm (v : Word) : (s.setRm v).perm = s.perm := rfl
@[simp] theorem State.setRm_gdtMsg (v : Word) : (s.setRm v).gdtMsg = s.gdtMsg := rfl
@[simp] theorem State.setRm_onFire (v : Word) : (s.setRm v).onFire = s.onFire := rfl
@[simp] theorem State.setRm_devices (v : Word) : (s.setRm v).devices = s.devices := rfl
@[simp] theorem State.setRm_deviceEvents (v : Word) : (s.setRm v).deviceEvents = s.deviceEvents := rfl
@[simp] theorem State.setRm_hwiAnswers (v : Word) : (s.setRm v).hwiAnswers = s.hwiAnswers := rfl
@[simp] theorem State.setRm_freeCount (v : Word) : (s.setRm v).freeCount = s.freeCount := rfl
@[simp] theorem State.setRm_cycles (v : Word) : (s.setRm v).cycles = s.cycles := rfl
@[simp] theorem State.setRm_reg (v : Word) (r : Reg) : (s.setRm v).reg r = s.reg r := rfl
@[simp] theorem State.setRm_bank (v : Word) (k : BankNo) (w : Word) : (s.setRm v).bank k w = s.bank k w := rfl

/-! ## setMem -/

@[simp] theorem State.setMem_regs (m : Memory) : (s.setMem m).regs = s.regs := rfl
@[simp] theorem State.setMem_pc (m : Memory) : (s.setMem m).pc = s.pc := rfl
@[simp] theorem State.setMem_sp (m : Memory) : (s.setMem m).sp = s.sp := rfl
@[simp] theorem State.setMem_ex (m : Memory) : (s.setMem m).ex = s.ex := rfl
@[simp] theorem State.setMem_ia (m : Memory) : (s.setMem m).ia = s.ia := rfl
@[simp] theorem State.setMem_mb (m : Memory) : (s.setMem m).mb = s.mb := rfl
@[simp] theorem State.setMem_rm (m : Memory) : (s.setMem m).rm = s.rm := rfl
@[simp] theorem State.setMem_mem (m : Memory) : (s.setMem m).mem = m := rfl
@[simp] theorem State.setMem_iq (m : Memory) : (s.setMem m).iq = s.iq := rfl
@[simp] theorem State.setMem_queue (m : Memory) : (s.setMem m).queue = s.queue := rfl
@[simp] theorem State.setMem_srtCalled (m : Memory) : (s.setMem m).srtCalled = s.srtCalled := rfl
@[simp] theorem State.setMem_perm (m : Memory) : (s.setMem m).perm = s.perm := rfl
@[simp] theorem State.setMem_gdtMsg (m : Memory) : (s.setMem m).gdtMsg = s.gdtMsg := rfl
@[simp] theorem State.setMem_onFire (m : Memory) : (s.setMem m).onFire = s.onFire := rfl
@[simp] theorem State.setMem_devices (m : Memory) : (s.setMem m).devices = s.devices := rfl
@[simp] theorem State.setMem_deviceEvents (m : Memory) : (s.setMem m).deviceEvents = s.deviceEvents := rfl
@[simp] theorem State.setMem_hwiAnswers (m : Memory) : (s.setMem m).hwiAnswers = s.hwiAnswers := rfl
@[simp] theorem State.setMem_freeCount (m : Memory) : (s.setMem m).freeCount = s.freeCount := rfl
@[simp] theorem State.setMem_cycles (m : Memory) : (s.setMem m).cycles = s.cycles := rfl
@[simp] theorem State.setMem_reg (m : Memory) (r : Reg) : (s.setMem m).reg r = s.reg r := rfl
@[simp] theorem State.setMem_userMode (m : Memory) : (s.setMem m).userMode = s.userMode := rfl
@[simp] theorem State.setMem_permits (m : Memory) (x : Access) (addr : Word) :
    (s.setMem m).permits x addr = s.permits x addr := rfl

/-! ## setIq -/

@[simp] theorem State.setIq_regs (v : Bool) : (s.setIq v).regs = s.regs := rfl
@[simp] theorem State.setIq_pc (v : Bool) : (s.setIq v).pc = s.pc := rfl
@[simp] theorem State.setIq_sp (v : Bool) : (s.setIq v).sp = s.sp := rfl
@[simp] theorem State.setIq_ex (v : Bool) : (s.setIq v).ex = s.ex := rfl
@[simp] theorem State.setIq_ia (v : Bool) : (s.setIq v).ia = s.ia := rfl
@[simp] theorem State.setIq_mb (v : Bool) : (s.setIq v).mb = s.mb := rfl
@[simp] theorem State.setIq_rm (v : Bool) : (s.setIq v).rm = s.rm := rfl
@[simp] theorem State.setIq_mem (v : Bool) : (s.setIq v).mem = s.mem := rfl
@[simp] theorem State.setIq_iq (v : Bool) : (s.setIq v).iq = v := rfl
@[simp] theorem State.setIq_queue (v : Bool) : (s.setIq v).queue = s.queue := rfl
@[simp] theorem State.setIq_srtCalled (v : Bool) : (s.setIq v).srtCalled = s.srtCalled := rfl
@[simp] theorem State.setIq_perm (v : Bool) : (s.setIq v).perm = s.perm := rfl
@[simp] theorem State.setIq_gdtMsg (v : Bool) : (s.setIq v).gdtMsg = s.gdtMsg := rfl
@[simp] theorem State.setIq_onFire (v : Bool) : (s.setIq v).onFire = s.onFire := rfl
@[simp] theorem State.setIq_devices (v : Bool) : (s.setIq v).devices = s.devices := rfl
@[simp] theorem State.setIq_deviceEvents (v : Bool) : (s.setIq v).deviceEvents = s.deviceEvents := rfl
@[simp] theorem State.setIq_hwiAnswers (v : Bool) : (s.setIq v).hwiAnswers = s.hwiAnswers := rfl
@[simp] theorem State.setIq_freeCount (v : Bool) : (s.setIq v).freeCount = s.freeCount := rfl
@[simp] theorem State.setIq_cycles (v : Bool) : (s.setIq v).cycles = s.cycles := rfl
@[simp] theorem State.setIq_reg (v : Bool) (r : Reg) : (s.setIq v).reg r = s.reg r := rfl
@[simp] theorem State.setIq_bank (v : Bool) (k : BankNo) (w : Word) : (s.setIq v).bank k w = s.bank k w := rfl
@[simp] theorem State.setIq_userMode (v : Bool) : (s.setIq v).userMode = s.userMode := rfl
@[simp] theorem State.setIq_permits (v : Bool) (x : Access) (addr : Word) :
    (s.setIq v).permits x addr = s.permits x addr := rfl

/-! ## setQueue -/

@[simp] theorem State.setQueue_regs (q : List Word) : (s.setQueue q).regs = s.regs := rfl
@[simp] theorem State.setQueue_pc (q : List Word) : (s.setQueue q).pc = s.pc := rfl
@[simp] theorem State.setQueue_sp (q : List Word) : (s.setQueue q).sp = s.sp := rfl
@[simp] theorem State.setQueue_ex (q : List Word) : (s.setQueue q).ex = s.ex := rfl
@[simp] theorem State.setQueue_ia (q : List Word) : (s.setQueue q).ia = s.ia := rfl
@[simp] theorem State.setQueue_mb (q : List Word) : (s.setQueue q).mb = s.mb := rfl
@[simp] theorem State.setQueue_rm (q : List Word) : (s.setQueue q).rm = s.rm := rfl
@[simp] theorem State.setQueue_mem (q : List Word) : (s.setQueue q).mem = s.mem := rfl
@[simp] theorem State.setQueue_iq (q : List Word) : (s.setQueue q).iq = s.iq := rfl
@[simp] theorem State.setQueue_queue (q : List Word) : (s.setQueue q).queue = q := rfl
@[simp] theorem State.setQueue_srtCalled (q : List Word) : (s.setQueue q).srtCalled = s.srtCalled := rfl
@[simp] theorem State.setQueue_perm (q : List Word) : (s.setQueue q).perm = s.perm := rfl
@[simp] theorem State.setQueue_gdtMsg (q : List Word) : (s.setQueue q).gdtMsg = s.gdtMsg := rfl
@[simp] theorem State.setQueue_onFire (q : List Word) : (s.setQueue q).onFire = s.onFire := rfl
@[simp] theorem State.setQueue_devices (q : List Word) : (s.setQueue q).devices = s.devices := rfl
@[simp] theorem State.setQueue_deviceEvents (q : List Word) : (s.setQueue q).deviceEvents = s.deviceEvents := rfl
@[simp] theorem State.setQueue_hwiAnswers (q : List Word) : (s.setQueue q).hwiAnswers = s.hwiAnswers := rfl
@[simp] theorem State.setQueue_freeCount (q : List Word) : (s.setQueue q).freeCount = s.freeCount := rfl
@[simp] theorem State.setQueue_cycles (q : List Word) : (s.setQueue q).cycles = s.cycles := rfl
@[simp] theorem State.setQueue_reg (q : List Word) (r : Reg) : (s.setQueue q).reg r = s.reg r := rfl
@[simp] theorem State.setQueue_bank (q : List Word) (k : BankNo) (w : Word) : (s.setQueue q).bank k w = s.bank k w := rfl
@[simp] theorem State.setQueue_userMode (q : List Word) : (s.setQueue q).userMode = s.userMode := rfl
@[simp] theorem State.setQueue_permits (q : List Word) (x : Access) (addr : Word) :
    (s.setQueue q).permits x addr = s.permits x addr := rfl

/-! ## setTables -/

@[simp] theorem State.setTables_regs (w : Word) (p : PermTable) : (s.setTables w p).regs = s.regs := rfl
@[simp] theorem State.setTables_pc (w : Word) (p : PermTable) : (s.setTables w p).pc = s.pc := rfl
@[simp] theorem State.setTables_sp (w : Word) (p : PermTable) : (s.setTables w p).sp = s.sp := rfl
@[simp] theorem State.setTables_ex (w : Word) (p : PermTable) : (s.setTables w p).ex = s.ex := rfl
@[simp] theorem State.setTables_ia (w : Word) (p : PermTable) : (s.setTables w p).ia = s.ia := rfl
@[simp] theorem State.setTables_mb (w : Word) (p : PermTable) : (s.setTables w p).mb = s.mb := rfl
@[simp] theorem State.setTables_rm (w : Word) (p : PermTable) : (s.setTables w p).rm = s.rm := rfl
@[simp] theorem State.setTables_mem (w : Word) (p : PermTable) : (s.setTables w p).mem = s.mem := rfl
@[simp] theorem State.setTables_iq (w : Word) (p : PermTable) : (s.setTables w p).iq = s.iq := rfl
@[simp] theorem State.setTables_queue (w : Word) (p : PermTable) : (s.setTables w p).queue = s.queue := rfl
@[simp] theorem State.setTables_srtCalled (w : Word) (p : PermTable) : (s.setTables w p).srtCalled = true := rfl
@[simp] theorem State.setTables_perm (w : Word) (p : PermTable) : (s.setTables w p).perm = p := rfl
@[simp] theorem State.setTables_gdtMsg (w : Word) (p : PermTable) : (s.setTables w p).gdtMsg = w := rfl
@[simp] theorem State.setTables_onFire (w : Word) (p : PermTable) : (s.setTables w p).onFire = s.onFire := rfl
@[simp] theorem State.setTables_devices (w : Word) (p : PermTable) : (s.setTables w p).devices = s.devices := rfl
@[simp] theorem State.setTables_deviceEvents (w : Word) (p : PermTable) : (s.setTables w p).deviceEvents = s.deviceEvents := rfl
@[simp] theorem State.setTables_hwiAnswers (w : Word) (p : PermTable) : (s.setTables w p).hwiAnswers = s.hwiAnswers := rfl
@[simp] theorem State.setTables_freeCount (w : Word) (p : PermTable) : (s.setTables w p).freeCount = s.freeCount := rfl
@[simp] theorem State.setTables_cycles (w : Word) (p : PermTable) : (s.setTables w p).cycles = s.cycles := rfl
@[simp] theorem State.setTables_reg (w : Word) (p : PermTable) (r : Reg) : (s.setTables w p).reg r = s.reg r := rfl
@[simp] theorem State.setTables_bank (w : Word) (p : PermTable) (k : BankNo) (u : Word) : (s.setTables w p).bank k u = s.bank k u := rfl
@[simp] theorem State.setTables_userMode (w : Word) (p : PermTable) : (s.setTables w p).userMode = s.userMode := rfl

/-! ## setDevices -/

@[simp] theorem State.setDevices_regs (d : List Device) : (s.setDevices d).regs = s.regs := rfl
@[simp] theorem State.setDevices_pc (d : List Device) : (s.setDevices d).pc = s.pc := rfl
@[simp] theorem State.setDevices_sp (d : List Device) : (s.setDevices d).sp = s.sp := rfl
@[simp] theorem State.setDevices_ex (d : List Device) : (s.setDevices d).ex = s.ex := rfl
@[simp] theorem State.setDevices_ia (d : List Device) : (s.setDevices d).ia = s.ia := rfl
@[simp] theorem State.setDevices_mb (d : List Device) : (s.setDevices d).mb = s.mb := rfl
@[simp] theorem State.setDevices_rm (d : List Device) : (s.setDevices d).rm = s.rm := rfl
@[simp] theorem State.setDevices_mem (d : List Device) : (s.setDevices d).mem = s.mem := rfl
@[simp] theorem State.setDevices_iq (d : List Device) : (s.setDevices d).iq = s.iq := rfl
@[simp] theorem State.setDevices_queue (d : List Device) : (s.setDevices d).queue = s.queue := rfl
@[simp] theorem State.setDevices_srtCalled (d : List Device) : (s.setDevices d).srtCalled = s.srtCalled := rfl
@[simp] theorem State.setDevices_perm (d : List Device) : (s.setDevices d).perm = s.perm := rfl
@[simp] theorem State.setDevices_gdtMsg (d : List Device) : (s.setDevices d).gdtMsg = s.gdtMsg := rfl
@[simp] theorem State.setDevices_onFire (d : List Device) : (s.setDevices d).onFire = s.onFire := rfl
@[simp] theorem State.setDevices_devices (d : List Device) : (s.setDevices d).devices = d := rfl
@[simp] theorem State.setDevices_deviceEvents (d : List Device) : (s.setDevices d).deviceEvents = s.deviceEvents := rfl
@[simp] theorem State.setDevices_hwiAnswers (d : List Device) : (s.setDevices d).hwiAnswers = s.hwiAnswers := rfl
@[simp] theorem State.setDevices_freeCount (d : List Device) : (s.setDevices d).freeCount = s.freeCount := rfl
@[simp] theorem State.setDevices_cycles (d : List Device) : (s.setDevices d).cycles = s.cycles := rfl
@[simp] theorem State.setDevices_reg (d : List Device) (r : Reg) : (s.setDevices d).reg r = s.reg r := rfl
@[simp] theorem State.setDevices_bank (d : List Device) (k : BankNo) (w : Word) : (s.setDevices d).bank k w = s.bank k w := rfl
@[simp] theorem State.setDevices_userMode (d : List Device) : (s.setDevices d).userMode = s.userMode := rfl
@[simp] theorem State.setDevices_permits (d : List Device) (x : Access) (addr : Word) :
    (s.setDevices d).permits x addr = s.permits x addr := rfl

/-! ## setDeviceEvents -/

@[simp] theorem State.setDeviceEvents_regs (e : List (List DeviceEvent)) : (s.setDeviceEvents e).regs = s.regs := rfl
@[simp] theorem State.setDeviceEvents_pc (e : List (List DeviceEvent)) : (s.setDeviceEvents e).pc = s.pc := rfl
@[simp] theorem State.setDeviceEvents_sp (e : List (List DeviceEvent)) : (s.setDeviceEvents e).sp = s.sp := rfl
@[simp] theorem State.setDeviceEvents_ex (e : List (List DeviceEvent)) : (s.setDeviceEvents e).ex = s.ex := rfl
@[simp] theorem State.setDeviceEvents_ia (e : List (List DeviceEvent)) : (s.setDeviceEvents e).ia = s.ia := rfl
@[simp] theorem State.setDeviceEvents_mb (e : List (List DeviceEvent)) : (s.setDeviceEvents e).mb = s.mb := rfl
@[simp] theorem State.setDeviceEvents_rm (e : List (List DeviceEvent)) : (s.setDeviceEvents e).rm = s.rm := rfl
@[simp] theorem State.setDeviceEvents_mem (e : List (List DeviceEvent)) : (s.setDeviceEvents e).mem = s.mem := rfl
@[simp] theorem State.setDeviceEvents_iq (e : List (List DeviceEvent)) : (s.setDeviceEvents e).iq = s.iq := rfl
@[simp] theorem State.setDeviceEvents_queue (e : List (List DeviceEvent)) : (s.setDeviceEvents e).queue = s.queue := rfl
@[simp] theorem State.setDeviceEvents_srtCalled (e : List (List DeviceEvent)) : (s.setDeviceEvents e).srtCalled = s.srtCalled := rfl
@[simp] theorem State.setDeviceEvents_perm (e : List (List DeviceEvent)) : (s.setDeviceEvents e).perm = s.perm := rfl
@[simp] theorem State.setDeviceEvents_gdtMsg (e : List (List DeviceEvent)) : (s.setDeviceEvents e).gdtMsg = s.gdtMsg := rfl
@[simp] theorem State.setDeviceEvents_onFire (e : List (List DeviceEvent)) : (s.setDeviceEvents e).onFire = s.onFire := rfl
@[simp] theorem State.setDeviceEvents_devices (e : List (List DeviceEvent)) : (s.setDeviceEvents e).devices = s.devices := rfl
@[simp] theorem State.setDeviceEvents_deviceEvents (e : List (List DeviceEvent)) : (s.setDeviceEvents e).deviceEvents = e := rfl
@[simp] theorem State.setDeviceEvents_hwiAnswers (e : List (List DeviceEvent)) : (s.setDeviceEvents e).hwiAnswers = s.hwiAnswers := rfl
@[simp] theorem State.setDeviceEvents_freeCount (e : List (List DeviceEvent)) : (s.setDeviceEvents e).freeCount = s.freeCount := rfl
@[simp] theorem State.setDeviceEvents_cycles (e : List (List DeviceEvent)) : (s.setDeviceEvents e).cycles = s.cycles := rfl
@[simp] theorem State.setDeviceEvents_reg (e : List (List DeviceEvent)) (r : Reg) : (s.setDeviceEvents e).reg r = s.reg r := rfl
@[simp] theorem State.setDeviceEvents_bank (e : List (List DeviceEvent)) (k : BankNo) (w : Word) : (s.setDeviceEvents e).bank k w = s.bank k w := rfl
@[simp] theorem State.setDeviceEvents_userMode (e : List (List DeviceEvent)) : (s.setDeviceEvents e).userMode = s.userMode := rfl
@[simp] theorem State.setDeviceEvents_permits (e : List (List DeviceEvent)) (x : Access) (addr : Word) :
    (s.setDeviceEvents e).permits x addr = s.permits x addr := rfl

/-! ## setHwiAnswers -/

@[simp] theorem State.setHwiAnswers_regs (h : List HwiAnswer) : (s.setHwiAnswers h).regs = s.regs := rfl
@[simp] theorem State.setHwiAnswers_pc (h : List HwiAnswer) : (s.setHwiAnswers h).pc = s.pc := rfl
@[simp] theorem State.setHwiAnswers_sp (h : List HwiAnswer) : (s.setHwiAnswers h).sp = s.sp := rfl
@[simp] theorem State.setHwiAnswers_ex (h : List HwiAnswer) : (s.setHwiAnswers h).ex = s.ex := rfl
@[simp] theorem State.setHwiAnswers_ia (h : List HwiAnswer) : (s.setHwiAnswers h).ia = s.ia := rfl
@[simp] theorem State.setHwiAnswers_mb (h : List HwiAnswer) : (s.setHwiAnswers h).mb = s.mb := rfl
@[simp] theorem State.setHwiAnswers_rm (h : List HwiAnswer) : (s.setHwiAnswers h).rm = s.rm := rfl
@[simp] theorem State.setHwiAnswers_mem (h : List HwiAnswer) : (s.setHwiAnswers h).mem = s.mem := rfl
@[simp] theorem State.setHwiAnswers_iq (h : List HwiAnswer) : (s.setHwiAnswers h).iq = s.iq := rfl
@[simp] theorem State.setHwiAnswers_queue (h : List HwiAnswer) : (s.setHwiAnswers h).queue = s.queue := rfl
@[simp] theorem State.setHwiAnswers_srtCalled (h : List HwiAnswer) : (s.setHwiAnswers h).srtCalled = s.srtCalled := rfl
@[simp] theorem State.setHwiAnswers_perm (h : List HwiAnswer) : (s.setHwiAnswers h).perm = s.perm := rfl
@[simp] theorem State.setHwiAnswers_gdtMsg (h : List HwiAnswer) : (s.setHwiAnswers h).gdtMsg = s.gdtMsg := rfl
@[simp] theorem State.setHwiAnswers_onFire (h : List HwiAnswer) : (s.setHwiAnswers h).onFire = s.onFire := rfl
@[simp] theorem State.setHwiAnswers_devices (h : List HwiAnswer) : (s.setHwiAnswers h).devices = s.devices := rfl
@[simp] theorem State.setHwiAnswers_deviceEvents (h : List HwiAnswer) : (s.setHwiAnswers h).deviceEvents = s.deviceEvents := rfl
@[simp] theorem State.setHwiAnswers_hwiAnswers (h : List HwiAnswer) : (s.setHwiAnswers h).hwiAnswers = h := rfl
@[simp] theorem State.setHwiAnswers_freeCount (h : List HwiAnswer) : (s.setHwiAnswers h).freeCount = s.freeCount := rfl
@[simp] theorem State.setHwiAnswers_cycles (h : List HwiAnswer) : (s.setHwiAnswers h).cycles = s.cycles := rfl
@[simp] theorem State.setHwiAnswers_reg (h : List HwiAnswer) (r : Reg) : (s.setHwiAnswers h).reg r = s.reg r := rfl
@[simp] theorem State.setHwiAnswers_bank (h : List HwiAnswer) (k : BankNo) (w : Word) : (s.setHwiAnswers h).bank k w = s.bank k w := rfl
@[simp] theorem State.setHwiAnswers_userMode (h : List HwiAnswer) : (s.setHwiAnswers h).userMode = s.userMode := rfl
@[simp] theorem State.setHwiAnswers_permits (h : List HwiAnswer) (x : Access) (addr : Word) :
    (s.setHwiAnswers h).permits x addr = s.permits x addr := rfl

/-! ## drawFree -/

@[simp] theorem State.drawFree_regs (n : Nat) : (s.drawFree n).regs = s.regs := rfl
@[simp] theorem State.drawFree_pc (n : Nat) : (s.drawFree n).pc = s.pc := rfl
@[simp] theorem State.drawFree_sp (n : Nat) : (s.drawFree n).sp = s.sp := rfl
@[simp] theorem State.drawFree_ex (n : Nat) : (s.drawFree n).ex = s.ex := rfl
@[simp] theorem State.drawFree_ia (n : Nat) : (s.drawFree n).ia = s.ia := rfl
@[simp] theorem State.drawFree_mb (n : Nat) : (s.drawFree n).mb = s.mb := rfl
@[simp] theorem State.drawFree_rm (n : Nat) : (s.drawFree n).rm = s.rm := rfl
@[simp] theorem State.drawFree_mem (n : Nat) : (s.drawFree n).mem = s.mem := rfl
@[simp] theorem State.drawFree_iq (n : Nat) : (s.drawFree n).iq = s.iq := rfl
@[simp] theorem State.drawFree_queue (n : Nat) : (s.drawFree n).queue = s.queue := rfl
@[simp] theorem State.drawFree_srtCalled (n : Nat) : (s.drawFree n).srtCalled = s.srtCalled := rfl
@[simp] theorem State.drawFree_perm (n : Nat) : (s.drawFree n).perm = s.perm := rfl
@[simp] theorem State.drawFree_gdtMsg (n : Nat) : (s.drawFree n).gdtMsg = s.gdtMsg := rfl
@[simp] theorem State.drawFree_onFire (n : Nat) : (s.drawFree n).onFire = s.onFire := rfl
@[simp] theorem State.drawFree_devices (n : Nat) : (s.drawFree n).devices = s.devices := rfl
@[simp] theorem State.drawFree_deviceEvents (n : Nat) : (s.drawFree n).deviceEvents = s.deviceEvents := rfl
@[simp] theorem State.drawFree_hwiAnswers (n : Nat) : (s.drawFree n).hwiAnswers = s.hwiAnswers := rfl
@[simp] theorem State.drawFree_freeCount (n : Nat) : (s.drawFree n).freeCount = s.freeCount + n := rfl
@[simp] theorem State.drawFree_cycles (n : Nat) : (s.drawFree n).cycles = s.cycles := rfl
@[simp] theorem State.drawFree_reg (n : Nat) (r : Reg) : (s.drawFree n).reg r = s.reg r := rfl
@[simp] theorem State.drawFree_bank (n : Nat) (k : BankNo) (w : Word) : (s.drawFree n).bank k w = s.bank k w := rfl
@[simp] theorem State.drawFree_userMode (n : Nat) : (s.drawFree n).userMode = s.userMode := rfl
@[simp] theorem State.drawFree_permits (n : Nat) (x : Access) (addr : Word) :
    (s.drawFree n).permits x addr = s.permits x addr := rfl

/-! ## addCycles -/

@[simp] theorem State.addCycles_regs (n : Nat) : (s.addCycles n).regs = s.regs := rfl
@[simp] theorem State.addCycles_pc (n : Nat) : (s.addCycles n).pc = s.pc := rfl
@[simp] theorem State.addCycles_sp (n : Nat) : (s.addCycles n).sp = s.sp := rfl
@[simp] theorem State.addCycles_ex (n : Nat) : (s.addCycles n).ex = s.ex := rfl
@[simp] theorem State.addCycles_ia (n : Nat) : (s.addCycles n).ia = s.ia := rfl
@[simp] theorem State.addCycles_mb (n : Nat) : (s.addCycles n).mb = s.mb := rfl
@[simp] theorem State.addCycles_rm (n : Nat) : (s.addCycles n).rm = s.rm := rfl
@[simp] theorem State.addCycles_mem (n : Nat) : (s.addCycles n).mem = s.mem := rfl
@[simp] theorem State.addCycles_iq (n : Nat) : (s.addCycles n).iq = s.iq := rfl
@[simp] theorem State.addCycles_queue (n : Nat) : (s.addCycles n).queue = s.queue := rfl
@[simp] theorem State.addCycles_srtCalled (n : Nat) : (s.addCycles n).srtCalled = s.srtCalled := rfl
@[simp] theorem State.addCycles_perm (n : Nat) : (s.addCycles n).perm = s.perm := rfl
@[simp] theorem State.addCycles_gdtMsg (n : Nat) : (s.addCycles n).gdtMsg = s.gdtMsg := rfl
@[simp] theorem State.addCycles_onFire (n : Nat) : (s.addCycles n).onFire = s.onFire := rfl
@[simp] theorem State.addCycles_devices (n : Nat) : (s.addCycles n).devices = s.devices := rfl
@[simp] theorem State.addCycles_deviceEvents (n : Nat) : (s.addCycles n).deviceEvents = s.deviceEvents := rfl
@[simp] theorem State.addCycles_hwiAnswers (n : Nat) : (s.addCycles n).hwiAnswers = s.hwiAnswers := rfl
@[simp] theorem State.addCycles_freeCount (n : Nat) : (s.addCycles n).freeCount = s.freeCount := rfl
@[simp] theorem State.addCycles_cycles (n : Nat) : (s.addCycles n).cycles = s.cycles + n := rfl
@[simp] theorem State.addCycles_reg (n : Nat) (r : Reg) : (s.addCycles n).reg r = s.reg r := rfl
@[simp] theorem State.addCycles_bank (n : Nat) (k : BankNo) (w : Word) : (s.addCycles n).bank k w = s.bank k w := rfl
@[simp] theorem State.addCycles_userMode (n : Nat) : (s.addCycles n).userMode = s.userMode := rfl
@[simp] theorem State.addCycles_permits (n : Nat) (x : Access) (addr : Word) :
    (s.addCycles n).permits x addr = s.permits x addr := rfl

/-! ## setCycles -/

@[simp] theorem State.setCycles_regs (n : Nat) : (s.setCycles n).regs = s.regs := rfl
@[simp] theorem State.setCycles_pc (n : Nat) : (s.setCycles n).pc = s.pc := rfl
@[simp] theorem State.setCycles_sp (n : Nat) : (s.setCycles n).sp = s.sp := rfl
@[simp] theorem State.setCycles_ex (n : Nat) : (s.setCycles n).ex = s.ex := rfl
@[simp] theorem State.setCycles_ia (n : Nat) : (s.setCycles n).ia = s.ia := rfl
@[simp] theorem State.setCycles_mb (n : Nat) : (s.setCycles n).mb = s.mb := rfl
@[simp] theorem State.setCycles_rm (n : Nat) : (s.setCycles n).rm = s.rm := rfl
@[simp] theorem State.setCycles_mem (n : Nat) : (s.setCycles n).mem = s.mem := rfl
@[simp] theorem State.setCycles_iq (n : Nat) : (s.setCycles n).iq = s.iq := rfl
@[simp] theorem State.setCycles_queue (n : Nat) : (s.setCycles n).queue = s.queue := rfl
@[simp] theorem State.setCycles_srtCalled (n : Nat) : (s.setCycles n).srtCalled = s.srtCalled := rfl
@[simp] theorem State.setCycles_perm (n : Nat) : (s.setCycles n).perm = s.perm := rfl
@[simp] theorem State.setCycles_gdtMsg (n : Nat) : (s.setCycles n).gdtMsg = s.gdtMsg := rfl
@[simp] theorem State.setCycles_onFire (n : Nat) : (s.setCycles n).onFire = s.onFire := rfl
@[simp] theorem State.setCycles_devices (n : Nat) : (s.setCycles n).devices = s.devices := rfl
@[simp] theorem State.setCycles_deviceEvents (n : Nat) : (s.setCycles n).deviceEvents = s.deviceEvents := rfl
@[simp] theorem State.setCycles_hwiAnswers (n : Nat) : (s.setCycles n).hwiAnswers = s.hwiAnswers := rfl
@[simp] theorem State.setCycles_freeCount (n : Nat) : (s.setCycles n).freeCount = s.freeCount := rfl
@[simp] theorem State.setCycles_cycles (n : Nat) : (s.setCycles n).cycles = n := rfl
@[simp] theorem State.setCycles_reg (n : Nat) (r : Reg) : (s.setCycles n).reg r = s.reg r := rfl
@[simp] theorem State.setCycles_bank (n : Nat) (k : BankNo) (w : Word) : (s.setCycles n).bank k w = s.bank k w := rfl
@[simp] theorem State.setCycles_userMode (n : Nat) : (s.setCycles n).userMode = s.userMode := rfl
@[simp] theorem State.setCycles_permits (n : Nat) (x : Access) (addr : Word) :
    (s.setCycles n).permits x addr = s.permits x addr := rfl
@[simp] theorem State.setCycles_add (n : Nat) : s.setCycles (s.cycles + n) = s.addCycles n := rfl

/-! ## setBank -/

@[simp] theorem State.setBank_regs (k : BankNo) (w v : Word) : (s.setBank k w v).regs = s.regs := rfl
@[simp] theorem State.setBank_pc (k : BankNo) (w v : Word) : (s.setBank k w v).pc = s.pc := rfl
@[simp] theorem State.setBank_sp (k : BankNo) (w v : Word) : (s.setBank k w v).sp = s.sp := rfl
@[simp] theorem State.setBank_ex (k : BankNo) (w v : Word) : (s.setBank k w v).ex = s.ex := rfl
@[simp] theorem State.setBank_ia (k : BankNo) (w v : Word) : (s.setBank k w v).ia = s.ia := rfl
@[simp] theorem State.setBank_mb (k : BankNo) (w v : Word) : (s.setBank k w v).mb = s.mb := rfl
@[simp] theorem State.setBank_rm (k : BankNo) (w v : Word) : (s.setBank k w v).rm = s.rm := rfl
@[simp] theorem State.setBank_mem (k : BankNo) (w v : Word) : (s.setBank k w v).mem = s.mem.setWord k w v := rfl
@[simp] theorem State.setBank_iq (k : BankNo) (w v : Word) : (s.setBank k w v).iq = s.iq := rfl
@[simp] theorem State.setBank_queue (k : BankNo) (w v : Word) : (s.setBank k w v).queue = s.queue := rfl
@[simp] theorem State.setBank_srtCalled (k : BankNo) (w v : Word) : (s.setBank k w v).srtCalled = s.srtCalled := rfl
@[simp] theorem State.setBank_perm (k : BankNo) (w v : Word) : (s.setBank k w v).perm = s.perm := rfl
@[simp] theorem State.setBank_gdtMsg (k : BankNo) (w v : Word) : (s.setBank k w v).gdtMsg = s.gdtMsg := rfl
@[simp] theorem State.setBank_onFire (k : BankNo) (w v : Word) : (s.setBank k w v).onFire = s.onFire := rfl
@[simp] theorem State.setBank_devices (k : BankNo) (w v : Word) : (s.setBank k w v).devices = s.devices := rfl
@[simp] theorem State.setBank_deviceEvents (k : BankNo) (w v : Word) : (s.setBank k w v).deviceEvents = s.deviceEvents := rfl
@[simp] theorem State.setBank_hwiAnswers (k : BankNo) (w v : Word) : (s.setBank k w v).hwiAnswers = s.hwiAnswers := rfl
@[simp] theorem State.setBank_freeCount (k : BankNo) (w v : Word) : (s.setBank k w v).freeCount = s.freeCount := rfl
@[simp] theorem State.setBank_cycles (k : BankNo) (w v : Word) : (s.setBank k w v).cycles = s.cycles := rfl
@[simp] theorem State.setBank_reg (k : BankNo) (w v : Word) (r : Reg) : (s.setBank k w v).reg r = s.reg r := rfl
@[simp] theorem State.setBank_userMode (k : BankNo) (w v : Word) : (s.setBank k w v).userMode = s.userMode := rfl
@[simp] theorem State.setBank_permits (k : BankNo) (w v : Word) (x : Access) (addr : Word) :
    (s.setBank k w v).permits x addr = s.permits x addr := rfl

/-! ## addUnstatedCycles -/

@[simp] theorem State.addUnstatedCycles_regs : (s.addUnstatedCycles).regs = s.regs := rfl
@[simp] theorem State.addUnstatedCycles_pc : (s.addUnstatedCycles).pc = s.pc := rfl
@[simp] theorem State.addUnstatedCycles_sp : (s.addUnstatedCycles).sp = s.sp := rfl
@[simp] theorem State.addUnstatedCycles_ex : (s.addUnstatedCycles).ex = s.ex := rfl
@[simp] theorem State.addUnstatedCycles_ia : (s.addUnstatedCycles).ia = s.ia := rfl
@[simp] theorem State.addUnstatedCycles_mb : (s.addUnstatedCycles).mb = s.mb := rfl
@[simp] theorem State.addUnstatedCycles_rm : (s.addUnstatedCycles).rm = s.rm := rfl
@[simp] theorem State.addUnstatedCycles_mem : (s.addUnstatedCycles).mem = s.mem := rfl
@[simp] theorem State.addUnstatedCycles_iq : (s.addUnstatedCycles).iq = s.iq := rfl
@[simp] theorem State.addUnstatedCycles_queue : (s.addUnstatedCycles).queue = s.queue := rfl
@[simp] theorem State.addUnstatedCycles_srtCalled : (s.addUnstatedCycles).srtCalled = s.srtCalled := rfl
@[simp] theorem State.addUnstatedCycles_perm : (s.addUnstatedCycles).perm = s.perm := rfl
@[simp] theorem State.addUnstatedCycles_gdtMsg : (s.addUnstatedCycles).gdtMsg = s.gdtMsg := rfl
@[simp] theorem State.addUnstatedCycles_onFire : (s.addUnstatedCycles).onFire = s.onFire := rfl
@[simp] theorem State.addUnstatedCycles_devices : (s.addUnstatedCycles).devices = s.devices := rfl
@[simp] theorem State.addUnstatedCycles_deviceEvents : (s.addUnstatedCycles).deviceEvents = s.deviceEvents := rfl
@[simp] theorem State.addUnstatedCycles_hwiAnswers : (s.addUnstatedCycles).hwiAnswers = s.hwiAnswers := rfl
@[simp] theorem State.addUnstatedCycles_freeCount : (s.addUnstatedCycles).freeCount = s.freeCount + 1 := rfl
@[simp] theorem State.addUnstatedCycles_cycles : (s.addUnstatedCycles).cycles = s.cycles + Config.unstatedCycles s.freeCount := rfl
@[simp] theorem State.addUnstatedCycles_reg (r : Reg) : (s.addUnstatedCycles).reg r = s.reg r := rfl
@[simp] theorem State.addUnstatedCycles_bank (k : BankNo) (w : Word) : (s.addUnstatedCycles).bank k w = s.bank k w := rfl
@[simp] theorem State.addUnstatedCycles_userMode : (s.addUnstatedCycles).userMode = s.userMode := rfl
@[simp] theorem State.addUnstatedCycles_permits (x : Access) (addr : Word) :
    (s.addUnstatedCycles).permits x addr = s.permits x addr := rfl

/-! ## consult: only the cycle counter can change -/

theorem State.consult_setCycles : s.consult = s.setCycles s.consult.cycles := by
  unfold State.consult; split <;> rfl
theorem State.consult_eq : s.consult = s.addCycles (if s.userMode then 1 else 0) := by
  unfold State.consult; split <;> rfl

@[simp] theorem State.consult_regs : s.consult.regs = s.regs := by rw [State.consult_eq]; rfl
@[simp] theorem State.consult_pc : s.consult.pc = s.pc := by rw [State.consult_eq]; rfl
@[simp] theorem State.consult_sp : s.consult.sp = s.sp := by rw [State.consult_eq]; rfl
@[simp] theorem State.consult_ex : s.consult.ex = s.ex := by rw [State.consult_eq]; rfl
@[simp] theorem State.consult_ia : s.consult.ia = s.ia := by rw [State.consult_eq]; rfl
@[simp] theorem State.consult_mb : s.consult.mb = s.mb := by rw [State.consult_eq]; rfl
@[simp] theorem State.consult_rm : s.consult.rm = s.rm := by rw [State.consult_eq]; rfl
@[simp] theorem State.consult_mem : s.consult.mem = s.mem := by rw [State.consult_eq]; rfl
@[simp] theorem State.consult_iq : s.consult.iq = s.iq := by rw [State.consult_eq]; rfl
@[simp] theorem State.consult_queue : s.consult.queue = s.queue := by rw [State.consult_eq]; rfl
@[simp] theorem State.consult_srtCalled : s.consult.srtCalled = s.srtCalled := by rw [State.consult_eq]; rfl
@[simp] theorem State.consult_perm : s.consult.perm = s.perm := by rw [State.consult_eq]; rfl
@[simp] theorem State.consult_gdtMsg : s.consult.gdtMsg = s.gdtMsg := by rw [State.consult_eq]; rfl
@[simp] theorem State.consult_onFire : s.consult.onFire = s.onFire := by rw [State.consult_eq]; rfl
@[simp] theorem State.consult_devices : s.consult.devices = s.devices := by rw [State.consult_eq]; rfl
@[simp] theorem State.consult_deviceEvents : s.consult.deviceEvents = s.deviceEvents := by rw [State.consult_eq]; rfl
@[simp] theorem State.consult_hwiAnswers : s.consult.hwiAnswers = s.hwiAnswers := by rw [State.consult_eq]; rfl
@[simp] theorem State.consult_freeCount : s.consult.freeCount = s.freeCount := by rw [State.consult_eq]; rfl
@[simp] theorem State.consult_reg (r : Reg) : s.consult.reg r = s.reg r := by rw [State.consult_eq]; rfl
@[simp] theorem State.consult_bank (k : BankNo) (w : Word) : s.consult.bank k w = s.bank k w := by
  rw [State.consult_eq]; rfl
@[simp] theorem State.consult_userMode : s.consult.userMode = s.userMode := by rw [State.consult_eq]; rfl
@[simp] theorem State.consult_permits (x : Access) (addr : Word) : s.consult.permits x addr = s.permits x addr := by
  rw [State.consult_eq]; rfl

/-- Two states that agree on every field are equal. -/
theorem State.eq_of_fields (t : State) (hregs : t.regs = s.regs) (hpc : t.pc = s.pc) (hsp : t.sp = s.sp)
    (hex : t.ex = s.ex) (hia : t.ia = s.ia) (hmb : t.mb = s.mb) (hrm : t.rm = s.rm) (hmem : t.mem = s.mem)
    (hiq : t.iq = s.iq) (hqueue : t.queue = s.queue) (hsrt : t.srtCalled = s.srtCalled) (hperm : t.perm = s.perm)
    (hmsg : t.gdtMsg = s.gdtMsg) (hfire : t.onFire = s.onFire) (hdev : t.devices = s.devices)
    (hev : t.deviceEvents = s.deviceEvents) (hans : t.hwiAnswers = s.hwiAnswers)
    (hfree : t.freeCount = s.freeCount) (hcyc : t.cycles = s.cycles) : t = s := by
  cases s; cases t; simp_all

end Sys2Proof.Machine
end

