-- ==== Sys2Proof/Laws/Ops.lean ====
section
/-! SUPPORT. What the shared operations can do: one lemma for each, which later proofs cite instead of unfolding it. -/

namespace Sys2Proof.Machine

/-! ## The cycle counter commutes with every update -/

section Cycles

variable (s : State) (n : Nat)

@[simp] theorem State.addCycles_zero : s.addCycles 0 = s := rfl
@[simp] theorem State.addCycles_addCycles (m : Nat) : (s.addCycles n).addCycles m = s.addCycles (n + m) := by
  simp [State.addCycles, Nat.add_assoc]
@[simp] theorem State.addCycles_setReg (r : Reg) (v : Word) : (s.addCycles n).setReg r v = (s.setReg r v).addCycles n := rfl
@[simp] theorem State.addCycles_setPc (v : Word) : (s.addCycles n).setPc v = (s.setPc v).addCycles n := rfl
@[simp] theorem State.addCycles_setSp (v : Word) : (s.addCycles n).setSp v = (s.setSp v).addCycles n := rfl
@[simp] theorem State.addCycles_setEx (v : Word) : (s.addCycles n).setEx v = (s.setEx v).addCycles n := rfl
@[simp] theorem State.addCycles_setIa (v : Word) : (s.addCycles n).setIa v = (s.setIa v).addCycles n := rfl
@[simp] theorem State.addCycles_setMb (v : BankNo) : (s.addCycles n).setMb v = (s.setMb v).addCycles n := rfl
@[simp] theorem State.addCycles_setRm (v : Word) : (s.addCycles n).setRm v = (s.setRm v).addCycles n := rfl
@[simp] theorem State.addCycles_setMem (m : Memory) : (s.addCycles n).setMem m = (s.setMem m).addCycles n := rfl
@[simp] theorem State.addCycles_setIq (v : Bool) : (s.addCycles n).setIq v = (s.setIq v).addCycles n := rfl
@[simp] theorem State.addCycles_setQueue (q : List Word) : (s.addCycles n).setQueue q = (s.setQueue q).addCycles n := rfl
@[simp] theorem State.addCycles_setTables (w : Word) (p : PermTable) : (s.addCycles n).setTables w p = (s.setTables w p).addCycles n := rfl
@[simp] theorem State.addCycles_setDevices (d : List Device) : (s.addCycles n).setDevices d = (s.setDevices d).addCycles n := rfl
@[simp] theorem State.addCycles_setHwiAnswers (h : List HwiAnswer) : (s.addCycles n).setHwiAnswers h = (s.setHwiAnswers h).addCycles n := rfl
@[simp] theorem State.addCycles_drawFree (m : Nat) : (s.addCycles n).drawFree m = (s.drawFree m).addCycles n := rfl
@[simp] theorem State.addCycles_setBank (k : BankNo) (w v : Word) : (s.addCycles n).setBank k w v = (s.setBank k w v).addCycles n := rfl
@[simp] theorem State.addCycles_store (l : Loc) (v : Word) :
    (s.addCycles n).store l v = (s.store l v).addCycles n := by cases l <;> rfl
@[simp] theorem State.addCycles_setExIf (o : Option Word) :
    (s.addCycles n).setExIf o = (s.setExIf o).addCycles n := by cases o <;> rfl
@[simp] theorem State.addCycles_valueAt (l : Loc) : (s.addCycles n).valueAt l = s.valueAt l := by cases l <;> rfl
@[simp] theorem AOperand.loc_addCycles (a : AOperand) : AOperand.loc a (s.addCycles n) = AOperand.loc a s := by
  rcases a with o | _ | _
  · cases o <;> rfl
  · rfl
  · rfl
@[simp] theorem BOperand.loc_addCycles (b : BOperand) : BOperand.loc b (s.addCycles n) = BOperand.loc b s := by
  rcases b with o | _
  · cases o <;> rfl
  · rfl
@[simp] theorem AOperand.spAfter_addCycles (a : AOperand) :
    AOperand.spAfter a (s.addCycles n) = AOperand.spAfter a s := by cases a <;> rfl
@[simp] theorem BOperand.spAfter_addCycles (b : BOperand) :
    BOperand.spAfter b (s.addCycles n) = BOperand.spAfter b s := by cases b <;> rfl
theorem State.consult_cycles_eq : s.consult = s.addCycles (s.checkCycles 1) := State.consult_eq s
@[simp] theorem State.checkCycles_addCycles (m : Nat) : (s.addCycles n).checkCycles m = s.checkCycles m := rfl
@[simp] theorem State.checkCycles_setReg (r : Reg) (v : Word) : (s.setReg r v).checkCycles n = s.checkCycles n := rfl
@[simp] theorem State.checkCycles_setPc (v : Word) : (s.setPc v).checkCycles n = s.checkCycles n := rfl
@[simp] theorem State.checkCycles_setSp (v : Word) : (s.setSp v).checkCycles n = s.checkCycles n := rfl
@[simp] theorem State.checkCycles_setEx (v : Word) : (s.setEx v).checkCycles n = s.checkCycles n := rfl
@[simp] theorem State.checkCycles_setIa (v : Word) : (s.setIa v).checkCycles n = s.checkCycles n := rfl
@[simp] theorem State.checkCycles_setMb (v : BankNo) : (s.setMb v).checkCycles n = s.checkCycles n := rfl
@[simp] theorem State.checkCycles_setMem (m : Memory) : (s.setMem m).checkCycles n = s.checkCycles n := rfl
@[simp] theorem State.checkCycles_setIq (v : Bool) : (s.setIq v).checkCycles n = s.checkCycles n := rfl
@[simp] theorem State.checkCycles_setBank (k : BankNo) (w v : Word) : (s.setBank k w v).checkCycles n = s.checkCycles n := rfl
@[simp] theorem State.checkCycles_store (l : Loc) (v : Word) : (s.store l v).checkCycles n = s.checkCycles n := by
  cases l <;> rfl
theorem State.checkCycles_add (m : Nat) : s.checkCycles n + s.checkCycles m = s.checkCycles (n + m) := by
  unfold State.checkCycles; split <;> simp

end Cycles

/-! ## Locations depend on the registers and SP alone -/

section Locations

variable (s : State)

@[simp] theorem AOperand.loc_setPc (a : AOperand) (v : Word) : AOperand.loc a (s.setPc v) = AOperand.loc a s := by
  rcases a with o | _ | _
  · cases o <;> rfl
  · rfl
  · rfl
@[simp] theorem BOperand.loc_setPc (b : BOperand) (v : Word) : BOperand.loc b (s.setPc v) = BOperand.loc b s := by
  rcases b with o | _
  · cases o <;> rfl
  · rfl
@[simp] theorem AOperand.spAfter_setPc (a : AOperand) (v : Word) :
    AOperand.spAfter a (s.setPc v) = AOperand.spAfter a s := by cases a <;> rfl
@[simp] theorem BOperand.spAfter_setPc (b : BOperand) (v : Word) :
    BOperand.spAfter b (s.setPc v) = BOperand.spAfter b s := by cases b <;> rfl

@[simp] theorem State.setPc_setPc (v w : Word) : (s.setPc v).setPc w = s.setPc w := rfl
@[simp] theorem State.setSp_setPc (v w : Word) : (s.setSp v).setPc w = (s.setPc w).setSp v := rfl
@[simp] theorem State.setSp_setSp (v w : Word) : (s.setSp v).setSp w = s.setSp w := rfl
@[simp] theorem State.setPc_pc_self : s.setPc s.pc = s := rfl
@[simp] theorem State.setSp_sp_self : s.setSp s.sp = s := rfl

end Locations

/-! ## Checks -/

section Checks

variable {s t : State} {x : Access} {addr v : Word}

theorem State.permits_kernel (h : s.userMode = false) (x : Access) (addr : Word) : s.permits x addr = true := by
  simp [State.permits, h]

theorem State.allows_kernel (h : s.userMode = false) (x : Access) (l : Loc) : s.allows x l = true := by
  cases l <;> simp [State.allows, State.permits_kernel h]

theorem State.allowsWords_kernel (h : s.userMode = false) (n : Nat) : s.allowsWords n = true := by
  simp [State.allowsWords, State.permits_kernel h]

@[simp] theorem State.checkCycles_kernel (h : s.userMode = false) (n : Nat) : s.checkCycles n = 0 := by
  simp [State.checkCycles, h]

theorem State.userMode_iff : s.userMode = true ↔ s.rm ≠ 0 := by simp [State.userMode]

theorem State.userMode_eq_false_iff : s.userMode = false ↔ s.rm = 0 := by simp [State.userMode]

theorem State.userMode_of_denied (h : ¬s.permits x addr = true) : s.userMode = true := by
  rcases Bool.eq_false_or_eq_true s.userMode with hu | hu
  · exact hu
  · exact absurd (State.permits_kernel hu x addr) h

@[simp] theorem State.checkCycles_user (h : s.userMode = true) (n : Nat) : s.checkCycles n = n := by
  simp [State.checkCycles, h]

/-- The denial of every access but the fetch of a skipped first word, with the cycle counter it leaves. -/
abbrev memDenial (n : Nat) : Denial := { gpf := .mem, resume := none, cycles := n }

theorem State.consult_denied (h : ¬s.permits x addr = true) : s.consult.cycles = s.cycles + 1 := by
  rw [State.consult_cycles_eq, State.checkCycles_user (State.userMode_of_denied h)]; rfl

/-- A check costs a consultation, and lets the access through or raises GPFMEM. -/
theorem check_eq (x : Access) (addr : Word) (s : State) : check x addr s =
    if s.permits x addr then .ok (s.addCycles (s.checkCycles 1)) else .error (memDenial (s.cycles + 1)) := by
  unfold check
  split
  · rw [State.consult_cycles_eq]
  · next h => rw [State.consult_denied h]

theorem memRead_eq (addr : Word) (s : State) : memRead addr s =
    if s.permits .read addr then .ok (s.bank s.mb addr, s.addCycles (s.checkCycles 1))
    else .error (memDenial (s.cycles + 1)) := by
  unfold memRead; rw [check_eq]; split <;> rfl

theorem memWrite_eq (addr v : Word) (s : State) : memWrite addr v s =
    if s.permits .write addr then .ok ((s.setBank s.mb addr v).addCycles (s.checkCycles 1))
    else .error (memDenial (s.cycles + 1)) := by
  unfold memWrite; rw [check_eq]; split <;> rfl

theorem skipFetch_eq (s : State) : skipFetch s =
    if s.permits .execute s.pc then .ok (s.bank s.mb s.pc, s.addCycles (s.checkCycles 1))
    else .error { gpf := .mem, resume := some (s.pc + 1), cycles := s.cycles + 1 } := by
  unfold skipFetch
  split
  · rw [State.consult_cycles_eq]
  · next h => rw [State.consult_denied h]

theorem passNextWord_eq (s : State) : passNextWord s =
    if s.permits .execute s.pc then .ok ((s.setPc (s.pc + 1)).addCycles (1 + s.checkCycles 1))
    else .error (memDenial (s.cycles + 1)) := by
  unfold passNextWord; rw [check_eq]; split
  · simp [bind, Except.bind, pure, Except.pure, Nat.add_comm]
  · rfl

theorem push_eq (v : Word) (s : State) : push v s =
    if s.permits .write (s.sp - 1) then
      .ok (((s.setSp (s.sp - 1)).setBank s.mb (s.sp - 1) v).addCycles (s.checkCycles 1))
    else .error (memDenial (s.cycles + 1)) := by
  unfold push; rw [memWrite_eq]; rfl

theorem pop_eq (s : State) : pop s =
    if s.permits .read s.sp then .ok (s.bank s.mb s.sp, (s.setSp (s.sp + 1)).addCycles (s.checkCycles 1))
    else .error (memDenial (s.cycles + 1)) := by
  unfold pop; rw [memRead_eq]; split <;> rfl

end Checks

/-! ## Interrupts -/

section Interrupts

variable {s t : State} {m : Word}

/-- A message enters the queue, and nothing else changes. -/
theorem enqueue_next (h : enqueue m s = .next t) :
    s.queue.length < Config.queueLimit ∧ t = s.setQueue (s.queue ++ [m]) := by
  unfold enqueue at h; split at h
  · next hq => exact ⟨hq, by cases h; rfl⟩
  · cases h

/-- The pushes of entry, if they are all allowed, leave one state. -/
theorem pushFrame_ok {s : State} (h : s.allowsFrame = true) : pushFrame s =
    .ok (((s.setMem s.frameMem).setSp (s.sp - BitVec.ofNat 16 s.frameWords)).addCycles (s.checkCycles s.frameWords)) := by
  have e : s.sp - 1 - 1 = s.sp - 2 := by bv_omega
  have e' : s.sp - 2 - 1 = s.sp - 3 := by bv_omega
  rcases Bool.eq_false_or_eq_true s.srtCalled with hs | hs <;>
    simp only [State.allowsFrame, hs, BitVec.ofNat_eq_ofNat, Bool.and_eq_true, Bool.not_true, Bool.not_false,
      Bool.false_or, Bool.true_or, and_true] at h e e' <;>
    simp [pushFrame, push_eq, State.frameMem, State.frameWords, bind, Except.bind, pure, Except.pure, hs, h, e, e']
  all_goals simp only [State.checkCycles_add]; rfl

/-- A denied push of entry is a denial. -/
theorem pushFrame_denied {s : State} (h : s.allowsFrame = false) : ∃ d, pushFrame s = .error d := by
  have e : s.sp - 1 - 1 = s.sp - 2 := by bv_omega
  have e' : s.sp - 2 - 1 = s.sp - 3 := by bv_omega
  revert h
  rcases Bool.eq_false_or_eq_true s.srtCalled with hs | hs <;>
    rcases Bool.eq_false_or_eq_true (s.permits .write (s.sp - 1)) with h1 | h1 <;>
    rcases Bool.eq_false_or_eq_true (s.permits .write (s.sp - 2)) with h2 | h2 <;>
    rcases Bool.eq_false_or_eq_true (s.permits .write (s.sp - 3)) with h3 | h3 <;>
    simp only [BitVec.ofNat_eq_ofNat] at h1 h2 h3 e e' <;>
    simp [pushFrame, push_eq, State.allowsFrame, bind, Except.bind, pure, Except.pure, hs, h1, h2, h3, e, e']

theorem State.frameMem_wf (h : s.mem.wf) : s.frameMem.wf := by
  unfold State.frameMem; split
  · exact Memory.setWord_wf (Memory.setWord_wf (Memory.setWord_wf h _ _ _) _ _ _) _ _ _
  · exact Memory.setWord_wf (Memory.setWord_wf h _ _ _) _ _ _

/-- Entry writes only the words of the frame. -/
theorem State.frameMem_word {k : BankNo} {w : Word} (h : s.frameMem.word k w ≠ s.bank k w) :
    k = s.mb ∧ (w = s.sp - 1 ∨ w = s.sp - 2 ∨ s.srtCalled = true ∧ w = s.sp - 3) := by
  revert h
  unfold State.frameMem State.bank
  cases s.srtCalled <;> simp only [if_true, if_false, Bool.false_eq_true, Memory.word_setWord]
  · by_cases h1 : k = s.mb ∧ w = s.sp - 2 <;> by_cases h2 : k = s.mb ∧ w = s.sp - 1 <;> simp only [h1, h2, if_false, ne_eq, not_true_eq_false, false_implies] <;> tauto
  · by_cases h1 : k = s.mb ∧ w = s.sp - 3 <;> by_cases h2 : k = s.mb ∧ w = s.sp - 2 <;>
      by_cases h3 : k = s.mb ∧ w = s.sp - 1 <;>
      simp only [h1, h2, h3, if_false, ne_eq, not_true_eq_false, false_implies] <;> tauto

/-- Entry leads to one state, or is the fault of a denied push. -/
theorem enterInterrupt_eq (m : Word) (s : State) : enterInterrupt m s =
    if s.allowsFrame then .next ((s.entered m).addCycles (s.checkCycles s.frameWords)) else .fault .doubleFault := by
  have e : (s.setIq true).allowsFrame = s.allowsFrame := rfl
  unfold enterInterrupt
  by_cases hf : s.allowsFrame = true
  · rw [if_pos hf]
    rw [pushFrame_ok (e.trans hf)]
    simp only [State.jumpToHandler]
    cases hs : s.srtCalled <;> simp [State.entered, hs] <;> rfl
  · obtain ⟨d, hd⟩ := pushFrame_denied (e.trans (by simpa using hf))
    rw [if_neg hf, hd]

/-- Delivery drops the message or enters the handler (60_exceptions.md R278). -/
theorem deliver_next (h : deliver m s = .next t) :
    (s.ia = 0 ∧ t = s) ∨
      (s.ia ≠ 0 ∧ s.allowsFrame = true ∧ t = (s.entered m).addCycles (s.checkCycles s.frameWords)) := by
  unfold deliver at h
  rw [enterInterrupt_eq] at h
  by_cases hi : s.ia = 0
  · rw [if_pos hi] at h; cases h; exact Or.inl ⟨hi, rfl⟩
  · rw [if_neg hi] at h
    by_cases hf : s.allowsFrame = true
    · rw [if_pos hf] at h; cases h; exact Or.inr ⟨hi, hf, rfl⟩
    · rw [if_neg hf] at h; cases h

/-- A software interrupt or a GPF is queued, dropped, or enters the handler (R277, R278). -/
theorem triggerSoft_next (h : triggerSoft m s = .next t) :
    (s.iq = true ∧ s.queue.length < Config.queueLimit ∧ t = s.setQueue (s.queue ++ [m])) ∨
      (s.iq = false ∧ s.ia = 0 ∧ t = s) ∨
      (s.iq = false ∧ s.ia ≠ 0 ∧ s.allowsFrame = true ∧
        t = (s.entered m).addCycles (s.checkCycles s.frameWords)) := by
  unfold triggerSoft at h
  rcases Bool.eq_false_or_eq_true s.iq with hq | hq
  · rw [if_pos hq] at h
    exact Or.inl ⟨hq, enqueue_next h⟩
  · rw [if_neg (by simp [hq])] at h
    rcases deliver_next h with h | h
    · exact Or.inr (Or.inl ⟨hq, h⟩)
    · exact Or.inr (Or.inr ⟨hq, h⟩)

/-- What a GPF leaves: the abandoned instruction's state but for pc (R292), then as any software interrupt. -/
theorem raiseGpf_next {g : Gpf} {r : Word} (h : raiseGpf g r s = .next t) :
    ∃ c n, (s.iq = true ∧ s.queue.length < Config.queueLimit ∧
        t = ((((s.setPc r).addCycles c).drawFree n).setQueue (s.queue ++ [s.gdtMsg ||| g.code]))) ∨
      (s.iq = false ∧ s.ia = 0 ∧ t = ((s.setPc r).addCycles c).drawFree n) ∨
      (s.iq = false ∧ s.ia ≠ 0 ∧ s.allowsFrame = true ∧
        t = (((s.setPc r).entered (s.gdtMsg ||| g.code)).addCycles c).drawFree n) := by
  unfold raiseGpf at h
  rcases triggerSoft_next h with ⟨h1, h2, h3⟩ | ⟨h1, h2, h3⟩ | ⟨h1, h2, h3, h4⟩
  · exact ⟨_, _, Or.inl ⟨h1, h2, h3⟩⟩
  · exact ⟨_, _, Or.inr (Or.inl ⟨h1, h2, h3⟩)⟩
  · refine ⟨Config.unstatedCycles s.freeCount + s.checkCycles s.frameWords, 1, Or.inr (Or.inr ⟨h1, h2, h3, h4.trans ?_⟩)⟩
    apply State.eq_of_fields <;> try rfl
    simp [State.entered, Nat.add_assoc]; rfl

theorem settle_next {len : Nat} {r : Attempt Result} (h : settle len s r = .next t) :
    r = .ok (.next t) ∨ ∃ d, r = .error d ∧
      raiseGpf d.gpf (d.resume.getD (s.pc + BitVec.ofNat 16 len)) (s.setCycles d.cycles) = .next t := by
  cases r with
  | ok o => left; simp only [settle] at h; rw [h]
  | error d => right; exact ⟨d, rfl, h⟩

theorem kernelOnly_next {len : Nat} {body : Result} (h : kernelOnly len s body = .next t) :
    (s.userMode = false ∧ body = .next t) ∨
      (s.userMode = true ∧ raiseGpf .ins (s.pc + BitVec.ofNat 16 len) (s.addCycles 1) = .next t) := by
  unfold kernelOnly at h
  rcases Bool.eq_false_or_eq_true s.userMode with hu | hu
  · rw [if_pos hu, State.consult_cycles_eq, State.checkCycles_user hu] at h; exact Or.inr ⟨hu, h⟩
  · rw [if_neg (by simp [hu])] at h; exact Or.inl ⟨hu, h⟩

end Interrupts

/-! ## Return from interrupt -/

/-- In kernel mode the return pops A, PC and, once SRT has been called, RM (47_interrupt_instr.md R236). -/
theorem returnFromInterrupt_kernel (s : State) (h : s.userMode = false) : returnFromInterrupt s =
    .ok (((((s.setIq false).setReg .a (s.bank s.mb s.sp)).setPc (s.bank s.mb (s.sp + 1))).setSp
        (s.sp + BitVec.ofNat 16 s.frameWords)).setRm
          (if s.srtCalled then s.bank s.mb (s.sp + 2) else s.rm)) := by
  have hp : ∀ a, s.permits .read a = true := fun a => State.permits_kernel h _ a
  have e : s.sp + 1 + 1 = s.sp + 2 := by bv_omega
  have e' : s.sp + 2 + 1 = s.sp + 3 := by bv_omega
  rcases Bool.eq_false_or_eq_true s.srtCalled with hs | hs <;>
    simp only [BitVec.ofNat_eq_ofNat] at e e' <;>
    simp [returnFromInterrupt, pop_eq, bind, Except.bind, pure, Except.pure, hp, hs, h, e, e', State.frameWords] <;> rfl

/-! ## Going on -/

theorem andThen_next {r : Result} {f : State → Result} {t : State} (h : andThen r f = .next t) :
    ∃ u, r = .next u ∧ f u = .next t := by
  cases r with
  | next u => exact ⟨u, rfl, h⟩
  | fault e => cases h
  | refused e => cases h

end Sys2Proof.Machine
end

