-- ==== Sys2Proof/Laws/Operands.lean ====
section
/-! SUPPORT. What evaluating, reading and writing operands can do, and the result of every shape of instruction in one
equation: its effect when every access is allowed, the general protection fault otherwise. -/

namespace Sys2Proof.Machine

/-! ## Operand words -/

theorem AOperand.words_le (a : AOperand) : a.words ≤ 1 := by
  rcases a with o | _ | _
  · cases o <;> simp [AOperand.words, AOperand.nextWord, Operand.nextWord]
  · simp [AOperand.words, AOperand.nextWord]
  · simp [AOperand.words, AOperand.nextWord]

theorem BOperand.words_le (b : BOperand) : b.words ≤ 1 := by
  rcases b with o | _
  · cases o <;> simp [BOperand.words, BOperand.nextWord, Operand.nextWord]
  · simp [BOperand.words, BOperand.nextWord]

/-- Passing the word of an operand, if it has one. -/
theorem passOperandWord_eq (n : Option Word) (s : State) : passOperandWord n s =
    if n.toList.length = 0 ∨ s.permits .execute s.pc = true then
      .ok ((s.setPc (s.pc + BitVec.ofNat 16 n.toList.length)).addCycles
        (n.toList.length + s.checkCycles n.toList.length))
    else .error (memDenial (s.cycles + 1)) := by
  cases n with
  | none => simp [passOperandWord, State.checkCycles]
  | some w => simp [passOperandWord, passNextWord_eq]

theorem evalA_eq (a : AOperand) (s : State) : evalA a s =
    if a.words = 0 ∨ s.permits .execute s.pc = true then
      .ok (AOperand.loc a s, ((s.setPc (s.pc + BitVec.ofNat 16 a.words)).setSp (AOperand.spAfter a s)).addCycles
        (a.words + s.checkCycles a.words))
    else .error (memDenial (s.cycles + 1)) := by
  unfold evalA AOperand.words; rw [passOperandWord_eq]; split <;> rfl

theorem evalB_eq (b : BOperand) (s : State) : evalB b s =
    if b.words = 0 ∨ s.permits .execute s.pc = true then
      .ok (BOperand.loc b s, ((s.setPc (s.pc + BitVec.ofNat 16 b.words)).setSp (BOperand.spAfter b s)).addCycles
        (b.words + s.checkCycles b.words))
    else .error (memDenial (s.cycles + 1)) := by
  unfold evalB BOperand.words; rw [passOperandWord_eq]; split <;> rfl

/-! ## Reading and writing -/

theorem readOp_eq (l : Loc) (s : State) : readOp l s =
    if s.allows .read l then .ok (s.valueAt l, s.addCycles (s.checkCycles l.accesses))
    else .error (memDenial (s.cycles + 1)) := by
  cases l <;> simp [readOp, memRead_eq, State.allows, State.valueAt, Loc.accesses, State.checkCycles]; rfl

theorem writeOp_eq (l : Loc) (v : Word) (s : State) : writeOp l v s =
    if s.allows .write l then .ok ((s.store l v).addCycles (s.checkCycles l.accesses))
    else .error (memDenial (s.cycles + 1)) := by
  cases l <;> simp [writeOp, memWrite_eq, State.allows, State.store, Loc.accesses, State.checkCycles]; rfl

/-! ## Cycles up to a denied access -/

section Spent

variable {s : State} {x : Access} {l : Loc} {addr : Word} {a : AOperand} {n : Nat} (ys : List CheckedAccess)

theorem State.userMode_of_disallowed (h : ¬s.allows x l = true) : s.userMode = true := by
  rcases Bool.eq_false_or_eq_true s.userMode with hu | hu
  · exact hu
  · exact absurd (State.allows_kernel hu x l) h

/-- The next word of an operand is made, or is the one denied. -/
theorem State.spentOn_word (hn : n ≤ 1) : s.spentOn (nextWordAccess n addr ++ ys) =
    if n = 0 ∨ s.permits .execute addr = true then 2 * n + s.spentOn ys else 1 := by
  obtain rfl | rfl : n = 0 ∨ n = 1 := by omega
  · simp [nextWordAccess]
  · simp [nextWordAccess, State.spentOn]

/-- The access to a location is made, or is the one denied. -/
theorem State.spentOn_loc : s.spentOn (l.access x ++ ys) =
    if s.allows x l = true then l.accesses + s.spentOn ys else 1 := by
  cases l <;> simp [Loc.access, Loc.accesses, State.allows, State.spentOn]; rfl

theorem State.spentOn_loc' : s.spentOn (l.access x) = if s.allows x l = true then l.accesses else 1 := by
  have h := State.spentOn_loc (s := s) (x := x) (l := l) []
  rwa [List.append_nil] at h

end Spent

/-! ## What operand evaluation leaves alone -/

section Same

variable (s : State) (a : AOperand) (b : BOperand) (x : Access) (l : Loc) (n : Nat)

@[simp] theorem State.afterA_userMode : (s.afterA a).userMode = s.userMode := rfl
@[simp] theorem State.afterA_permits (w : Word) : (s.afterA a).permits x w = s.permits x w := rfl
@[simp] theorem State.afterA_checkCycles : (s.afterA a).checkCycles n = s.checkCycles n := rfl
@[simp] theorem State.afterA_pc : (s.afterA a).pc = s.pc + 1 + BitVec.ofNat 16 a.words := rfl
@[simp] theorem State.afterA_cycles : (s.afterA a).cycles = s.cycles := rfl
@[simp] theorem State.afterA_ex : (s.afterA a).ex = s.ex := rfl
@[simp] theorem State.afterA_allows : (s.afterA a).allows x l = s.allows x l := by cases l <;> rfl
@[simp] theorem State.afterAB_userMode : (s.afterAB b a).userMode = s.userMode := rfl
@[simp] theorem State.afterAB_permits (w : Word) : (s.afterAB b a).permits x w = s.permits x w := rfl
@[simp] theorem State.afterAB_checkCycles : (s.afterAB b a).checkCycles n = s.checkCycles n := rfl
@[simp] theorem State.afterAB_cycles : (s.afterAB b a).cycles = s.cycles := rfl
@[simp] theorem State.afterAB_ex : (s.afterAB b a).ex = s.ex := rfl
@[simp] theorem State.afterAB_pc : (s.afterAB b a).pc = s.pc + 1 + BitVec.ofNat 16 (a.words + b.words) := rfl
@[simp] theorem State.afterAB_allows : (s.afterAB b a).allows x l = s.allows x l := by cases l <;> rfl
@[simp] theorem State.addCycles_allows : (s.addCycles n).allows x l = s.allows x l := by cases l <;> rfl

/-- a's word, if it has one, may be fetched. -/
theorem State.allowsWords_a : s.allowsWords a.words = true ↔ a.words = 0 ∨ s.permits .execute (s.pc + 1) = true := by
  have ha := AOperand.words_le a
  have ha' : a.words = 0 ∨ a.words = 1 := by omega
  rcases ha' with h | h <;> simp [State.allowsWords, h]

theorem State.pastFirstWord_eq : s.pastFirstWord = (s.setPc (s.pc + 1)).addCycles (s.checkCycles 1) :=
  State.consult_cycles_eq _

end Same

/-! ## The phases of an instruction -/

/-- Reading a: the state after it, or GPFMEM. -/
theorem readSource_eq (a : AOperand) (s : State) : readSource a s =
    if s.allowsSource a then
      .ok (s.valueA a, (s.afterA a).addCycles (a.words + s.checkCycles (1 + a.words + (s.locA a).accesses)))
    else .error (memDenial (s.cycles + s.userCycles (s.sourceAccesses a))) := by
  unfold readSource State.userCycles State.sourceAccesses
  rw [State.pastFirstWord_eq, evalA_eq, State.spentOn_word _ (AOperand.words_le a), State.spentOn_loc']
  have hl : AOperand.loc a ((s.setPc (s.pc + 1)).addCycles (s.checkCycles 1)) = s.locA a := by
    simp [State.locA]
  have hsp : AOperand.spAfter a ((s.setPc (s.pc + 1)).addCycles (s.checkCycles 1)) = AOperand.spAfter a s := by simp
  rw [hl, hsp]
  by_cases h1 : a.words = 0 ∨ s.permits .execute (s.pc + 1) = true
  · have hA : s.allowsWords a.words = true := (State.allowsWords_a s a).2 h1
    rw [if_pos (by simpa using h1), if_pos h1]
    simp only [bind, Except.bind]
    rw [readOp_eq]
    unfold State.allowsSource
    rw [hA, Bool.true_and]
    have e : ∀ v w : Word, ((((s.setPc (s.pc + 1)).addCycles (s.checkCycles 1)).setPc v).setSp w).allows .read (s.locA a) =
        s.allows .read (s.locA a) := by
      intro v w; cases s.locA a <;> rfl
    simp only [State.addCycles_allows, e]
    split
    · congr 1
      refine Prod.ext ?_ ?_
      · simp only [State.addCycles_valueAt]
        unfold State.valueA State.afterA
        simp
      · simp only [State.addCycles_setPc, State.addCycles_setSp, State.addCycles_addCycles, State.setPc_setPc,
          State.checkCycles_addCycles, State.checkCycles_setPc, State.checkCycles_setSp, State.addCycles_pc,
          State.setPc_pc]
        unfold State.afterA
        congr 1
        simp only [← State.checkCycles_add]; omega
    · next h2 =>
      have hu := State.userMode_of_disallowed h2
      simp [hu]; omega
  · have hA : s.allowsWords a.words = false := by
      rw [Bool.eq_false_iff]; exact fun h => h1 ((State.allowsWords_a s a).1 h)
    rw [if_neg (by simpa using h1), if_neg (by simp [State.allowsSource, hA]), if_neg h1]
    have hu := State.userMode_of_denied (fun h => h1 (Or.inr h))
    simp [hu, bind, Except.bind, Nat.add_assoc]

/-- The cycles of reading a, when it may be read, and of what follows. -/
theorem State.spentOn_source {s : State} {a : AOperand} (h : s.allowsSource a = true) (ys : List CheckedAccess) :
    s.spentOn (s.sourceAccesses a ++ ys) = 2 * a.words + (s.locA a).accesses + s.spentOn ys := by
  simp only [State.allowsSource, Bool.and_eq_true, State.allowsWords_a] at h
  unfold State.sourceAccesses
  rw [List.append_assoc, State.spentOn_word _ (AOperand.words_le a), if_pos h.1, State.spentOn_loc, if_pos h.2,
    Nat.add_assoc]

/-- When a may not be read, nothing follows. -/
theorem State.spentOn_source_denied {s : State} {a : AOperand} (h : ¬s.allowsSource a = true)
    (ys : List CheckedAccess) : s.spentOn (s.sourceAccesses a ++ ys) = s.spentOn (s.sourceAccesses a) := by
  simp only [State.allowsSource, Bool.and_eq_true, State.allowsWords_a] at h
  unfold State.sourceAccesses
  rw [List.append_assoc, State.spentOn_word _ (AOperand.words_le a), State.spentOn_word _ (AOperand.words_le a),
    State.spentOn_loc, State.spentOn_loc']
  by_cases h1 : a.words = 0 ∨ s.permits .execute (s.pc + 1) = true
  · have h2 : ¬s.allows .read (s.locA a) = true := fun h2 => h ⟨h1, h2⟩
    simp only [h1, h2, if_true, Bool.false_eq_true, if_false]
  · rw [if_neg h1, if_neg h1]

/-- Evaluating b after a has been read: b's location and the state after it, or GPFMEM. -/
theorem evalB_after (b : BOperand) (a : AOperand) (s : State) (c : Nat) :
    evalB b ((s.afterA a).addCycles c) =
      if b.words = 0 ∨ s.permits .execute (s.pc + 1 + BitVec.ofNat 16 a.words) = true then
        .ok (s.locB b a, (s.afterAB b a).addCycles (c + b.words + s.checkCycles b.words))
      else .error (memDenial (s.cycles + c + 1)) := by
  rw [evalB_eq]
  by_cases h : b.words = 0 ∨ s.permits .execute (s.pc + 1 + BitVec.ofNat 16 a.words) = true
  · rw [if_pos (show b.words = 0 ∨ ((s.afterA a).addCycles c).permits .execute ((s.afterA a).addCycles c).pc = true from h),
      if_pos h]
    congr 1
    refine Prod.ext ?_ ?_
    · simp [State.locB]
    · simp only [State.addCycles_setPc, State.addCycles_setSp, State.addCycles_addCycles, State.checkCycles_addCycles,
        State.afterA_checkCycles, BOperand.spAfter_addCycles, State.addCycles_pc, State.afterA_pc]
      unfold State.afterAB
      have e : s.pc + 1 + BitVec.ofNat 16 a.words + BitVec.ofNat 16 b.words =
          s.pc + 1 + BitVec.ofNat 16 (a.words + b.words) := by
        rw [BitVec.add_assoc, ← BitVec.ofNat_add]
      rw [e, Nat.add_assoc]
  · rw [if_neg (show ¬(b.words = 0 ∨ ((s.afterA a).addCycles c).permits .execute ((s.afterA a).addCycles c).pc = true) from h),
      if_neg h]
    rfl

/-- The words of both operands are fetched exactly when the two phases allow it. -/
theorem State.allowsWords_split (s : State) (b : BOperand) (a : AOperand) :
    (s.allowsWords (a.words + b.words) = true) ↔
      (s.allowsWords a.words = true ∧
        (b.words = 0 ∨ s.permits .execute (s.pc + 1 + BitVec.ofNat 16 a.words) = true)) := by
  have ha := AOperand.words_le a
  have hb := BOperand.words_le b
  have e : s.pc + 1 + 1 = s.pc + 2 := by bv_omega
  have ha' : a.words = 0 ∨ a.words = 1 := by omega
  have hb' : b.words = 0 ∨ b.words = 1 := by omega
  simp only [BitVec.ofNat_eq_ofNat] at e
  rcases ha' with ha' | ha' <;> rcases hb' with hb' | hb' <;> simp [State.allowsWords, ha', hb', e]

/-- a may be read and b evaluated. -/
theorem State.allowsOperands_iff (s : State) (b : BOperand) (a : AOperand) :
    (s.allowsWords (a.words + b.words) && s.allows .read (s.locA a)) = true ↔
      s.allowsSource a = true ∧ (b.words = 0 ∨ s.permits .execute (s.pc + 1 + BitVec.ofNat 16 a.words) = true) := by
  rw [Bool.and_eq_true, State.allowsWords_split, State.allowsSource, Bool.and_eq_true]; tauto

/-- Reading a and evaluating b: a's value, b's location and the state after it, or GPFMEM. -/
theorem readOperands_eq (b : BOperand) (a : AOperand) (s : State) : readOperands b a s =
    if s.allowsWords (a.words + b.words) && s.allows .read (s.locA a) then
      .ok (s.valueA a, s.locB b a, (s.afterAB b a).addCycles
        (a.words + b.words + s.checkCycles (1 + a.words + b.words + (s.locA a).accesses)))
    else .error (memDenial (s.cycles + s.userCycles (s.operandAccesses b a))) := by
  unfold readOperands State.userCycles State.operandAccesses
  rw [readSource_eq]
  by_cases h1 : s.allowsSource a = true
  · rw [if_pos h1, State.spentOn_source h1]
    simp only [bind, Except.bind]
    rw [evalB_after, ← List.append_nil (nextWordAccess b.words _), State.spentOn_word _ (BOperand.words_le b)]
    by_cases h2 : b.words = 0 ∨ s.permits .execute (s.pc + 1 + BitVec.ofNat 16 a.words) = true
    · rw [if_pos h2, if_pos ((s.allowsOperands_iff b a).2 ⟨h1, h2⟩)]
      simp only [pure, Except.pure]
      congr 4
      simp only [← State.checkCycles_add]; omega
    · rw [if_neg h2, if_neg (fun h => h2 ((s.allowsOperands_iff b a).1 h).2), if_neg h2]
      have hu := State.userMode_of_denied (fun h => h2 (Or.inr h))
      rw [State.checkCycles_user hu]
      show Except.error _ = _
      congr 2
      omega
  · rw [if_neg h1, if_neg (fun h => h1 ((s.allowsOperands_iff b a).1 h).1), State.spentOn_source_denied h1]
    rfl

/-- The cycles of reading a and evaluating b, when both may be done, and of what follows. -/
theorem State.spentOn_operands {s : State} {b : BOperand} {a : AOperand}
    (h : (s.allowsWords (a.words + b.words) && s.allows .read (s.locA a)) = true) (ys : List CheckedAccess) :
    s.spentOn (s.operandAccesses b a ++ ys) =
      2 * a.words + (s.locA a).accesses + 2 * b.words + s.spentOn ys := by
  obtain ⟨h1, h2⟩ := (s.allowsOperands_iff b a).1 h
  unfold State.operandAccesses
  rw [List.append_assoc, State.spentOn_source h1, State.spentOn_word _ (BOperand.words_le b), if_pos h2,
    Nat.add_assoc (2 * a.words + _)]

/-- When that may not be done, nothing follows. -/
theorem State.spentOn_operands_denied {s : State} {b : BOperand} {a : AOperand}
    (h : ¬(s.allowsWords (a.words + b.words) && s.allows .read (s.locA a)) = true) (ys : List CheckedAccess) :
    s.spentOn (s.operandAccesses b a ++ ys) = s.spentOn (s.operandAccesses b a) := by
  unfold State.operandAccesses
  rw [List.append_assoc]
  by_cases h1 : s.allowsSource a = true
  · have h2 := fun h2 => h ((s.allowsOperands_iff b a).2 ⟨h1, h2⟩)
    rw [State.spentOn_source h1, State.spentOn_source h1, State.spentOn_word _ (BOperand.words_le b), if_neg h2,
      ← List.append_nil (nextWordAccess b.words _), State.spentOn_word _ (BOperand.words_le b), if_neg h2]
  · rw [State.spentOn_source_denied h1, State.spentOn_source_denied h1]

/-! ## User-mode cycles when every access is allowed -/

section UserCycles

variable {s : State} {b : BOperand} {a : AOperand}

theorem State.userCycles_source (h : s.allowsSource a = true) :
    s.userCycles (s.sourceAccesses a) = a.words + (1 + a.words + (s.locA a).accesses) := by
  have e := State.spentOn_source h []
  rw [List.append_nil] at e
  rw [State.userCycles, e]; simp only [State.spentOn]; omega

theorem State.userCycles_target (h : s.allowsTarget a = true) :
    s.userCycles (s.targetAccesses a) = a.words + (1 + a.words + (s.locA a).accesses) := by
  simp only [State.allowsTarget, Bool.and_eq_true, State.allowsWords_a] at h
  rw [State.userCycles, State.targetAccesses, State.spentOn_word _ (AOperand.words_le a), if_pos h.1, State.spentOn_loc',
    if_pos h.2]; omega

theorem State.userCycles_compare (h : s.allowsCompare b a = true) : s.userCycles (s.compareAccesses b a) =
    a.words + b.words + (1 + a.words + b.words + (s.locA a).accesses + (s.locB b a).accesses) := by
  rw [State.allowsCompare, Bool.and_eq_true] at h
  rw [State.userCycles, State.compareAccesses, State.spentOn_operands h.1, State.spentOn_loc', if_pos h.2]; omega

theorem State.userCycles_move (h : s.allowsMove b a = true) : s.userCycles (s.moveAccesses b a) =
    a.words + b.words + (1 + a.words + b.words + (s.locA a).accesses + (s.locB b a).accesses) := by
  rw [State.allowsMove, Bool.and_eq_true] at h
  rw [State.userCycles, State.moveAccesses, State.spentOn_operands h.1, State.spentOn_loc', if_pos h.2]; omega

theorem State.userCycles_readModifyWrite (h : s.allowsReadModifyWrite b a = true) :
    s.userCycles (s.readModifyWriteAccesses b a) =
      a.words + b.words + (1 + a.words + b.words + (s.locA a).accesses + 2 * (s.locB b a).accesses) := by
  rw [State.allowsReadModifyWrite, Bool.and_eq_true, Bool.and_eq_true] at h
  rw [State.userCycles, State.readModifyWriteAccesses, State.compareAccesses, List.append_assoc,
    State.spentOn_operands h.1.1, State.spentOn_loc, if_pos h.1.2, State.spentOn_loc', if_pos h.2]; omega

theorem State.userCycles_jsr (h : s.allowsSource a = true) : s.userCycles (s.jsrAccesses a) =
    a.words + (1 + a.words + (s.locA a).accesses) + 1 := by
  rw [State.userCycles, State.jsrAccesses, State.spentOn_source h, State.spentOn_loc']
  split <;> (simp only [Loc.accesses]; omega)

theorem State.userCycles_jsr_denied (h : ¬s.allowsSource a = true) :
    s.userCycles (s.jsrAccesses a) = s.userCycles (s.sourceAccesses a) := by
  rw [State.userCycles, State.jsrAccesses, State.spentOn_source_denied h, State.userCycles]

end UserCycles

/-! ## The shapes of instructions -/

section Shapes

variable (b : BOperand) (a : AOperand) (s : State)

theorem settle_error (len n : Nat) : settle len s (.error (memDenial (s.cycles + n))) =
    raiseGpf .mem (s.pc + BitVec.ofNat 16 len) (s.addCycles n) := rfl

/-- A basic instruction that reads b and writes it. -/
theorem readModifyWrite_eq (cost : Nat) (f : Word → Word → Word → Word × Option Word) :
    readModifyWrite cost f b a s =
      if s.allowsReadModifyWrite b a then
        .next ((((s.afterAB b a).store (s.locB b a) (f s.ex (s.valueB b a) (s.valueA a)).1).setExIf
          (f s.ex (s.valueB b a) (s.valueA a)).2).addCycles
            (cost + a.words + b.words +
              s.checkCycles (1 + a.words + b.words + (s.locA a).accesses + 2 * (s.locB b a).accesses)))
      else raiseGpf .mem (s.pc + BitVec.ofNat 16 (basicLength b a))
        (s.addCycles (s.userCycles (s.readModifyWriteAccesses b a))) := by
  unfold readModifyWrite State.allowsReadModifyWrite State.readModifyWriteAccesses State.compareAccesses
  rw [readOperands_eq, ← settle_error, List.append_assoc]
  by_cases h1 : (s.allowsWords (a.words + b.words) && s.allows .read (s.locA a)) = true
  · rw [if_pos h1, h1, State.userCycles, State.spentOn_operands h1, State.spentOn_loc, State.spentOn_loc']
    simp only [bind, Except.bind, readOp_eq, State.addCycles_allows, State.afterAB_allows, Bool.true_and]
    by_cases h3 : s.allows .read (s.locB b a) = true
    · simp only [if_pos h3, writeOp_eq, State.addCycles_allows, State.afterAB_allows]
      by_cases h4 : s.allows .write (s.locB b a) = true
      · simp only [h3, h4, Bool.and_self, if_true, settle, complete, pure, Except.pure]
        congr 1
        simp only [State.addCycles_store, State.addCycles_setExIf, State.addCycles_addCycles, State.addCycles_ex,
          State.afterAB_ex, State.addCycles_valueAt, State.checkCycles_addCycles, State.afterAB_checkCycles]
        unfold State.valueB
        congr 1
        simp only [← State.checkCycles_add, Nat.two_mul]; omega
      · have hu := State.userMode_of_disallowed h4
        simp only [h3, h4, Bool.false_eq_true, if_false, Bool.and_false, State.addCycles_cycles, State.afterAB_cycles,
          State.checkCycles_addCycles, State.afterAB_checkCycles, State.checkCycles_user hu]
        congr 3; omega
    · have hu := State.userMode_of_disallowed h3
      simp only [h3, Bool.false_eq_true, if_false, Bool.false_and, State.addCycles_cycles, State.afterAB_cycles,
        State.checkCycles_user hu]
      congr 3; omega
  · rw [if_neg h1, State.userCycles, State.userCycles, State.spentOn_operands_denied h1]
    simp only [Bool.not_eq_true] at h1
    simp only [h1, Bool.false_and, Bool.false_eq_true, if_false]
    rfl

/-- A basic instruction that writes a's value to b. -/
theorem moveThen_eq (cost : Nat) (after : State → State)
    (hafter : ∀ t n, after (State.addCycles t n) = (after t).addCycles n) :
    moveThen cost after b a s =
      if s.allowsMove b a then
        .next ((after ((s.afterAB b a).store (s.locB b a) (s.valueA a))).addCycles
          (cost + a.words + b.words +
            s.checkCycles (1 + a.words + b.words + (s.locA a).accesses + (s.locB b a).accesses)))
      else raiseGpf .mem (s.pc + BitVec.ofNat 16 (basicLength b a))
        (s.addCycles (s.userCycles (s.moveAccesses b a))) := by
  unfold moveThen State.allowsMove State.moveAccesses
  rw [readOperands_eq, ← settle_error]
  by_cases h1 : (s.allowsWords (a.words + b.words) && s.allows .read (s.locA a)) = true
  · rw [if_pos h1, h1, State.userCycles, State.spentOn_operands h1, State.spentOn_loc']
    simp only [bind, Except.bind, writeOp_eq, State.addCycles_allows, State.afterAB_allows, Bool.true_and]
    by_cases h4 : s.allows .write (s.locB b a) = true
    · simp only [h4, if_true, settle, complete, pure, Except.pure]
      congr 1
      simp only [State.addCycles_store, hafter, State.addCycles_addCycles, State.checkCycles_addCycles,
        State.afterAB_checkCycles]
      congr 1
      simp only [← State.checkCycles_add]; omega
    · have hu := State.userMode_of_disallowed h4
      simp only [h4, Bool.false_eq_true, if_false, State.addCycles_cycles, State.afterAB_cycles,
        State.checkCycles_user hu]
      congr 3; omega
  · rw [if_neg h1, State.userCycles, State.userCycles, State.spentOn_operands_denied h1]
    simp only [Bool.not_eq_true] at h1
    simp only [h1, Bool.false_and, Bool.false_eq_true, if_false]
    rfl

/-- A special instruction that reads a. -/
theorem withValue_eq (act : Word → State → Attempt Result) :
    withValue a s act =
      if s.allowsSource a then
        settle (specialLength a) s (act (s.valueA a)
          ((s.afterA a).addCycles (a.words + s.checkCycles (1 + a.words + (s.locA a).accesses))))
      else raiseGpf .mem (s.pc + BitVec.ofNat 16 (specialLength a))
        (s.addCycles (s.userCycles (s.sourceAccesses a))) := by
  unfold withValue
  rw [readSource_eq]
  split <;> rfl

/-- A special instruction that sets a. -/
theorem setOperand_eq (cost : Nat) (value : State → Word) (after : State → State)
    (hvalue : ∀ (t : State) n, value (t.addCycles n) = value t)
    (hafter : ∀ (t : State) n, after (t.addCycles n) = (after t).addCycles n) :
    setOperand cost value after a s =
      if s.allowsTarget a then
        .next ((after ((s.afterA a).store (s.locA a) (value (s.afterA a)))).addCycles
          (cost + a.words + s.checkCycles (1 + a.words + (s.locA a).accesses)))
      else raiseGpf .mem (s.pc + BitVec.ofNat 16 (specialLength a))
        (s.addCycles (s.userCycles (s.targetAccesses a))) := by
  unfold setOperand State.allowsTarget State.userCycles State.targetAccesses
  rw [State.pastFirstWord_eq, evalA_eq, State.spentOn_word _ (AOperand.words_le a), State.spentOn_loc', ← settle_error]
  have hl : AOperand.loc a ((s.setPc (s.pc + 1)).addCycles (s.checkCycles 1)) = s.locA a := by
    simp [State.locA]
  have hsp : AOperand.spAfter a ((s.setPc (s.pc + 1)).addCycles (s.checkCycles 1)) = AOperand.spAfter a s := by simp
  rw [hl, hsp]
  have hst : ((((s.setPc (s.pc + 1)).addCycles (s.checkCycles 1)).setPc
      (((s.setPc (s.pc + 1)).addCycles (s.checkCycles 1)).pc + BitVec.ofNat 16 a.words)).setSp
        (AOperand.spAfter a s)) = (s.afterA a).addCycles (s.checkCycles 1) := by
    simp only [State.addCycles_setPc, State.addCycles_setSp, State.setPc_setPc, State.addCycles_pc, State.setPc_pc]
    rfl
  rw [hst]
  by_cases h1 : a.words = 0 ∨ s.permits .execute (s.pc + 1) = true
  · have hA : s.allowsWords a.words = true := (State.allowsWords_a s a).2 h1
    rw [if_pos (by simpa using h1), if_pos h1]
    simp only [bind, Except.bind]
    rw [hA, Bool.true_and]
    simp only [writeOp_eq, State.addCycles_allows, State.afterA_allows]
    by_cases h4 : s.allows .write (s.locA a) = true
    · simp only [if_pos h4, settle, complete, pure, Except.pure]
      congr 1
      simp only [State.addCycles_store, hvalue, hafter, State.addCycles_addCycles, State.checkCycles_addCycles,
        State.checkCycles_setPc, State.afterA_checkCycles]
      congr 1
      simp only [← State.checkCycles_add]; omega
    · have hu := State.userMode_of_disallowed h4
      simp only [h4, Bool.false_eq_true, if_false, State.addCycles_cycles, State.afterA_cycles,
        State.checkCycles_addCycles, State.checkCycles_setPc, State.checkCycles_user hu]
      congr 3; omega
  · have hA : s.allowsWords a.words = false := by
      rw [Bool.eq_false_iff]; exact fun h => h1 ((State.allowsWords_a s a).1 h)
    have hu := State.userMode_of_denied (fun h => h1 (Or.inr h))
    rw [if_neg (by simpa using h1), if_neg (by simp [hA]), if_neg h1]
    simp only [bind, Except.bind, State.addCycles_cycles, State.setPc_cycles, State.checkCycles_user hu]

end Shapes

end Sys2Proof.Machine
end

