-- ==== Sys2Proof/Laws/Frames.lean ====
section
/-! SUPPORT. From the states that the shapes of instructions lead to, to the frames of Safety: everything an instruction
leaves unchanged. -/

namespace Sys2Proof.Machine

section Frames

variable (s : State) (b : BOperand) (a : AOperand) (n : Nat)

@[simp] theorem State.sameSystem_refl : s.SameSystem s := by constructor <;> rfl

/-- The cycle counter is in no frame. -/
theorem State.Leaves.addCycles {s t : State} {pc sp : Word} {l : Loc} {v : Word} {ex : Option Word}
    (h : s.Leaves t pc sp l v ex) (n : Nat) : s.Leaves (t.addCycles n) pc sp l v ex :=
  ⟨h.regs, h.pc_eq, h.sp_eq, h.ex_eq, h.mem, h.system.ia, h.system.mb, h.system.rm, h.system.iq, h.system.queue,
    h.system.srtCalled, h.system.perm, h.system.gdtMsg, h.system.onFire, h.system.devices, h.system.deviceEvents,
    h.system.hwiAnswers, h.system.freeCount⟩

theorem State.afterAB_pc' : (s.afterAB b a).pc = s.pcAfterAB b a := by
  show s.pc + 1 + BitVec.ofNat 16 (a.words + b.words) = s.pc + BitVec.ofNat 16 (1 + a.words + b.words)
  rw [Nat.add_assoc 1, BitVec.ofNat_add 1 (a.words + b.words), ← BitVec.add_assoc]; rfl

theorem State.afterA_pc' : (s.afterA a).pc = s.pcAfterA a := by
  show s.pc + 1 + BitVec.ofNat 16 a.words = s.pc + BitVec.ofNat 16 (1 + a.words)
  rw [BitVec.ofNat_add, ← BitVec.add_assoc]; rfl

theorem State.afterA_sp : (s.afterA a).sp = s.spAfterA a := by
  cases a <;> rfl

theorem State.afterAB_sp : (s.afterAB b a).sp = s.spAfterAB b a := by
  cases b <;> cases a <;> rfl

/-- Writing a location of a state that differs from `s` in pc and SP alone. -/
theorem State.leaves_store (pc sp : Word) (l : Loc) (v : Word) (ex : Option Word) :
    s.Leaves ((((s.setPc pc).setSp sp).store l v).setExIf ex) pc sp l v ex := by
  cases l <;> cases ex <;> constructor <;> try rfl
  all_goals first
    | (intro k w; simp [State.store, State.setExIf, State.bank, State.setBank, Memory.word_setWord, eq_comm])
    | (intro r; simp [State.store, State.setExIf, State.reg_def, Regs.get_set, eq_comm])
    | (constructor <;> rfl)

theorem State.setsB_store (ex : Option Word) (v : Word) :
    s.SetsB (((((s.afterAB b a).store (s.locB b a) v).setExIf ex)).addCycles n) b a v ex := by
  refine State.Leaves.addCycles ?_ n
  have h : s.afterAB b a = (s.setPc (s.pcAfterAB b a)).setSp (s.spAfterAB b a) := by
    rw [← State.afterAB_pc', ← State.afterAB_sp]; rfl
  rw [h]; exact s.leaves_store _ _ _ _ _

theorem State.setsA_store (v : Word) : s.SetsA (((s.afterA a).store (s.locA a) v).addCycles n) a v := by
  refine State.Leaves.addCycles ?_ n
  have h : s.afterA a = (s.setPc (s.pcAfterA a)).setSp (s.spAfterA a) := by
    rw [← State.afterA_pc', ← State.afterA_sp]; rfl
  rw [h]; exact s.leaves_store _ _ _ _ none

theorem State.passesA_afterA : s.PassesA ((s.afterA a).addCycles n) a := by
  refine State.Leaves.addCycles ?_ n
  have h : s.afterA a = (s.setPc (s.pcAfterA a)).setSp (s.spAfterA a) := by
    rw [← State.afterA_pc', ← State.afterA_sp]; rfl
  rw [h]; exact s.leaves_store _ _ (.lit 0) _ none

/-- In kernel mode every operand access is allowed (20_memory.md R70). -/
theorem State.allowsReadModifyWrite_kernel (h : s.userMode = false) : s.allowsReadModifyWrite b a = true := by
  simp [State.allowsReadModifyWrite, State.allowsWords_kernel h, State.allows_kernel h]

theorem State.allowsMove_kernel (h : s.userMode = false) : s.allowsMove b a = true := by
  simp [State.allowsMove, State.allowsWords_kernel h, State.allows_kernel h]

theorem State.allowsCompare_kernel (h : s.userMode = false) : s.allowsCompare b a = true := by
  simp [State.allowsCompare, State.allowsWords_kernel h, State.allows_kernel h]

theorem State.allowsSource_kernel (h : s.userMode = false) : s.allowsSource a = true := by
  simp [State.allowsSource, State.allowsWords_kernel h, State.allows_kernel h]

theorem State.allowsTarget_kernel (h : s.userMode = false) : s.allowsTarget a = true := by
  simp [State.allowsTarget, State.allowsWords_kernel h, State.allows_kernel h]

/-! ## Completion: what every shape of instruction leaves when its accesses are allowed -/

theorem readModifyWrite_completes (cost : Nat) (f : Word → Word → Word → Word × Option Word)
    (h : s.allowsReadModifyWrite b a = true) : ∃ t, readModifyWrite cost f b a s = .next t ∧
      s.SetsB t b a (f s.ex (s.valueB b a) (s.valueA a)).1 (f s.ex (s.valueB b a) (s.valueA a)).2 :=
  ⟨_, by rw [readModifyWrite_eq, if_pos h], s.setsB_store b a _ _ _⟩

theorem setOperand_completes (cost : Nat) (value : State → Word) (hv : ∀ (t : State) n, value (t.addCycles n) = value t)
    (h : s.allowsTarget a = true) : ∃ t, setOperand cost value id a s = .next t ∧ s.SetsA t a (value (s.afterA a)) :=
  ⟨_, by rw [setOperand_eq a s cost value id hv (fun _ _ => rfl), if_pos h]; rfl, s.setsA_store a _ _⟩

end Frames

end Sys2Proof.Machine
end

