-- ==== Sys2Proof/Laws/Devices.lean ====
section
/-! SUPPORT. What the devices can do: in phase A of a step and inside an HWI. -/

namespace Sys2Proof.Machine

theorem State.sameSystem_trans {s t u : State} (h : s.SameSystem t) (h' : t.SameSystem u) : s.SameSystem u :=
  ⟨h'.ia.trans h.ia, h'.mb.trans h.mb, h'.rm.trans h.rm, h'.iq.trans h.iq, h'.queue.trans h.queue,
    h'.srtCalled.trans h.srtCalled, h'.perm.trans h.perm, h'.gdtMsg.trans h.gdtMsg, h'.onFire.trans h.onFire,
    h'.devices.trans h.devices, h'.deviceEvents.trans h.deviceEvents, h'.hwiAnswers.trans h.hwiAnswers,
    h'.freeCount.trans h.freeCount⟩

/-! ## One change -/

theorem State.deviceWrite_sameSystem (s : State) (w : DeviceWrite) : s.SameSystem (s.deviceWrite w) := by
  cases w <;> constructor <;> rfl

@[simp] theorem State.deviceWrite_cycles (s : State) (w : DeviceWrite) : (s.deviceWrite w).cycles = s.cycles := by
  cases w <;> rfl

theorem State.deviceWrite_wf {s : State} (h : s.mem.wf) (w : DeviceWrite) : (s.deviceWrite w).mem.wf := by
  cases w with
  | mem k addr v => exact Memory.setWord_wf h _ _ _
  | reg r v => exact h
  | pc v => exact h
  | sp v => exact h
  | ex v => exact h

theorem State.deviceWrite_bank {s : State} {d : DeviceInfo} {w : DeviceWrite} (hd : d.mayWrite w = true)
    {k : BankNo} {addr : Word} (h : (s.deviceWrite w).bank k addr ≠ s.bank k addr) : k = 0 ∨ d.otherBanks = true := by
  cases w with
  | mem k' addr' v =>
    simp only [State.deviceWrite, State.bank, State.setBank, State.setMem_mem, Memory.word_setWord] at h
    split at h
    · next hk => simpa [DeviceInfo.mayWrite, hk.1] using hd
    · exact absurd rfl h
  | reg r v => exact absurd rfl h
  | pc v => exact absurd rfl h
  | sp v => exact absurd rfl h
  | ex v => exact absurd rfl h

/-- The machine's test of a change is the rule's (60_exceptions.md R303). -/
theorem DeviceInfo.mayWrite_iff {d : DeviceInfo} {w : DeviceWrite} : d.mayWrite w = true ↔ d.Reaches w := by
  cases w with
  | mem k addr v =>
    simp only [DeviceInfo.mayWrite, Bool.or_eq_true, beq_iff_eq]
    exact ⟨fun h _ _ _ e => by cases e; exact h, fun h => h k addr v rfl⟩
  | reg r v => exact ⟨fun _ _ _ _ e => (nomatch e), fun _ => rfl⟩
  | pc v => exact ⟨fun _ _ _ _ e => (nomatch e), fun _ => rfl⟩
  | sp v => exact ⟨fun _ _ _ _ e => (nomatch e), fun _ => rfl⟩
  | ex v => exact ⟨fun _ _ _ _ e => (nomatch e), fun _ => rfl⟩

/-! ## Changes of one device, in order -/

/-- Allowed changes are all made, in order. -/
theorem deviceWrites_allowed {d : DeviceInfo} {ws : List DeviceWrite} : ∀ {s : State}, (∀ w ∈ ws, d.mayWrite w = true) →
    deviceWrites d ws s = .next (ws.foldl State.deviceWrite s) := by
  induction ws with
  | nil => intro s _; rfl
  | cons w rest ih =>
    intro s h
    rw [deviceWrites, if_pos (h w (by simp))]
    exact ih (fun v hv => h v (by simp [hv]))

/-- A change that is not allowed is refused. -/
theorem deviceWrites_forbidden {d : DeviceInfo} {ws : List DeviceWrite} : ∀ {s : State},
    (∃ w ∈ ws, ¬d.mayWrite w = true) → deviceWrites d ws s = .refused .invalidDevice := by
  induction ws with
  | nil => rintro s ⟨_, h, _⟩; cases h
  | cons w rest ih =>
    rintro s ⟨v, hv, hn⟩
    rw [deviceWrites]
    split
    · next hw =>
      rcases List.mem_cons.1 hv with rfl | hv
      · exact absurd hw hn
      · exact ih ⟨v, hv, hn⟩
    · rfl

/-- What a device's changes leave: the system state and the counters as they were, memory in canonical form, no bank but
bank 0 touched unless its documentation says so (60_exceptions.md R303). -/
theorem deviceWrites_next {d : DeviceInfo} {ws : List DeviceWrite} : ∀ {s t : State}, deviceWrites d ws s = .next t →
    s.SameSystem t ∧ t.cycles = s.cycles ∧ (s.mem.wf → t.mem.wf) ∧
      ∀ k w, t.bank k w ≠ s.bank k w → k = 0 ∨ d.otherBanks = true := by
  induction ws with
  | nil =>
    intro s t h; cases h
    exact ⟨State.sameSystem_refl s, rfl, id, fun _ _ h => absurd rfl h⟩
  | cons w rest ih =>
    intro s t h
    unfold deviceWrites at h
    by_cases hw : d.mayWrite w = true
    · rw [if_pos hw] at h
      obtain ⟨h1, h2, h3, h4⟩ := ih h
      refine ⟨State.sameSystem_trans (State.deviceWrite_sameSystem s w) h1, by simpa using h2,
        fun hwf => h3 (State.deviceWrite_wf hwf w), fun k a hk => ?_⟩
      by_cases he : (s.deviceWrite w).bank k a = s.bank k a
      · exact h4 k a (by rw [he]; exact hk)
      · exact State.deviceWrite_bank hw he
    · rw [if_neg hw] at h; cases h

/-! ## Phase A -/

/-- What phase A leaves: everything is as before but A to J, PC, SP, EX, memory, the queue and the script. -/
structure State.DevicesActed (s t : State) : Prop where
  ia : t.ia = s.ia
  mb : t.mb = s.mb
  rm : t.rm = s.rm
  iq : t.iq = s.iq
  srtCalled : t.srtCalled = s.srtCalled
  perm : t.perm = s.perm
  gdtMsg : t.gdtMsg = s.gdtMsg
  onFire : t.onFire = s.onFire
  devices : t.devices = s.devices
  deviceEvents : t.deviceEvents = s.deviceEvents
  hwiAnswers : t.hwiAnswers = s.hwiAnswers
  freeCount : t.freeCount = s.freeCount
  cycles : t.cycles = s.cycles
  queue : ∃ ms, t.queue = s.queue ++ ms
  queue_le : s.queue.length ≤ Config.queueLimit → t.queue.length ≤ Config.queueLimit
  mem_wf : s.mem.wf → t.mem.wf
  bank : ∀ k w, t.bank k w ≠ s.bank k w → ∃ d ∈ s.devices, d.hwiSeen = true ∧ (k = 0 ∨ d.info.otherBanks = true)
  quiet : (∀ d ∈ s.devices, d.hwiSeen = false) → t = s.setQueue t.queue

theorem State.devicesActed_refl (s : State) : s.DevicesActed s := by
  constructor <;> try rfl
  · exact ⟨[], by simp⟩
  · exact id
  · exact id
  · exact fun _ _ h => absurd rfl h
  · exact fun _ => rfl

theorem State.devicesActed_trans {s t u : State} (h : s.DevicesActed t) (h' : t.DevicesActed u) : s.DevicesActed u := by
  constructor
  · exact h'.ia.trans h.ia
  · exact h'.mb.trans h.mb
  · exact h'.rm.trans h.rm
  · exact h'.iq.trans h.iq
  · exact h'.srtCalled.trans h.srtCalled
  · exact h'.perm.trans h.perm
  · exact h'.gdtMsg.trans h.gdtMsg
  · exact h'.onFire.trans h.onFire
  · exact h'.devices.trans h.devices
  · exact h'.deviceEvents.trans h.deviceEvents
  · exact h'.hwiAnswers.trans h.hwiAnswers
  · exact h'.freeCount.trans h.freeCount
  · exact h'.cycles.trans h.cycles
  · obtain ⟨ms, hm⟩ := h.queue
    obtain ⟨ms', hm'⟩ := h'.queue
    exact ⟨ms ++ ms', by rw [hm', hm, List.append_assoc]⟩
  · exact fun hq => h'.queue_le (h.queue_le hq)
  · exact fun hw => h'.mem_wf (h.mem_wf hw)
  · intro k w hk
    by_cases he : t.bank k w = s.bank k w
    · rw [← h.devices]; exact h'.bank k w (by rw [he]; exact hk)
    · exact h.bank k w he
  · intro hd
    have h1 := h.quiet hd
    have h2 := h'.quiet (by rw [h.devices]; exact hd)
    exact h2.trans (by rw [h1]; rfl)

theorem deviceEvent_next {e : DeviceEvent} {s t : State} (h : deviceEvent e s = .next t) : s.DevicesActed t := by
  cases e with
  | interrupt dev msg =>
    simp only [deviceEvent] at h
    split at h
    · obtain ⟨hq, rfl⟩ := enqueue_next h
      constructor <;> try rfl
      · exact ⟨[msg], rfl⟩
      · intro _; simp; omega
      · exact id
      · exact fun _ _ h => absurd rfl h
      · exact fun _ => rfl
    · cases h
  | write dev w =>
    simp only [deviceEvent] at h
    split at h
    · rename_i d hd
      have hm : d ∈ s.devices := List.mem_of_getElem? hd
      by_cases hs : d.hwiSeen = true
      · rw [if_pos hs] at h
        obtain ⟨h1, h2, h3, h4⟩ := deviceWrites_next h
        exact ⟨h1.ia, h1.mb, h1.rm, h1.iq, h1.srtCalled, h1.perm, h1.gdtMsg, h1.onFire, h1.devices, h1.deviceEvents,
          h1.hwiAnswers, h1.freeCount, h2, ⟨[], by simp [h1.queue]⟩, fun hq => by rw [h1.queue]; exact hq, h3,
          fun k a hk => ⟨d, hm, hs, h4 k a hk⟩, fun hn => by rw [hn d hm] at hs; cases hs⟩
      · rw [if_neg hs] at h; cases h
    · cases h

theorem deviceEvents_next {es : List DeviceEvent} : ∀ {s t : State}, deviceEvents es s = .next t → s.DevicesActed t := by
  induction es with
  | nil => intro s t h; cases h; exact State.devicesActed_refl s
  | cons e rest ih =>
    intro s t h
    obtain ⟨u, hu, ht⟩ := andThen_next h
    exact State.devicesActed_trans (deviceEvent_next hu) (ih ht)

/-- Phase A (R270): the script loses its first list, and the devices have acted. -/
theorem devicePhase_next {s t : State} (h : devicePhase s = .next t) :
    (s.setDeviceEvents s.deviceEvents.tail).DevicesActed t := deviceEvents_next h

/-! ## HWQ and HWI -/

/-- HWQ writes five registers, and draws five free values when there is no such device. -/
theorem queryDevice_frame (va : Word) (s : State) : ∃ a b c x y n,
    queryDevice va s = (s.setHwqRegs a b c x y).drawFree n := by
  unfold queryDevice
  split
  · exact ⟨_, _, _, _, _, 0, rfl⟩
  · exact ⟨_, _, _, _, _, 5, rfl⟩

/-- An HWI reaches a connected device, marks it, uses up one answer and lets the device make its changes (R248). -/
theorem sendHwi_next {va : Word} {s t : State} (h : sendHwi va s = .next t) : ∃ d, s.devices[va.toNat]? = some d ∧
    deviceWrites d.info s.hwiAnswer.writes
      (((s.markHwi va.toNat).setHwiAnswers s.hwiAnswers.tail).addCycles (4 + s.hwiAnswer.extraCycles)) = .next t := by
  unfold sendHwi at h
  split at h
  · rename_i d hd; exact ⟨d, hd, h⟩
  · cases h

@[simp] theorem State.markHwi_infos (s : State) (n : Nat) :
    (s.markHwi n).devices.map (fun d => d.info) = s.devices.map (fun d => d.info) := by
  apply List.ext_getElem?
  intro i
  simp only [State.markHwi, State.setDevices_devices, List.getElem?_map, List.getElem?_modify]
  by_cases h : n = i
  · subst h; cases s.devices[n]? <;> simp
  · simp [h]

@[simp] theorem State.markHwi_length (s : State) (n : Nat) : (s.markHwi n).devices.length = s.devices.length := by
  simp [State.markHwi]

end Sys2Proof.Machine
end

