-- ==== Sys2Proof/Laws/Protection.lean ====
section
/-! SUPPORT. What compiling the descriptor tables yields: the canonical form, and the flags of a page. -/

namespace Sys2Proof.Machine

/-- The pages of an entry: from its start on, as many as its length, none above 255 (20_memory.md R75). -/
theorem mem_entryCovers {e : Word} {p : Nat} :
    p ∈ entryCovers e ↔ entryStart e ≤ p ∧ p < entryStart e + entryPages e ∧ p < Config.pages := by
  simp only [entryCovers, List.mem_filter, List.mem_map, List.mem_range, decide_eq_true_eq]
  constructor
  · rintro ⟨⟨n, hn, rfl⟩, hp⟩; exact ⟨by omega, by omega, hp⟩
  · rintro ⟨h1, h2, h3⟩; exact ⟨⟨p - entryStart e, by omega, by omega⟩, h3⟩

/-! ## Canonical form -/

theorem grantPages_wf (k : BankNo) (f : Flags) (ps : List Nat) (hps : ∀ p ∈ ps, p < Config.pages) :
    ∀ t : PermTable, t.wf → (ps.foldl (fun t p => t.grant k p f) t).wf := by
  induction ps with
  | nil => exact fun _ h => h
  | cons p rest ih =>
    intro t h
    exact ih (fun q hq => hps q (by simp [hq])) _ (PermTable.grant_wf h k (hps p (by simp)) f)

theorem grantEntry_wf {k : BankNo} {t : PermTable} (h : t.wf) (e : Word) : (grantEntry k t e).wf :=
  grantPages_wf k _ _ (fun _ hp => (mem_entryCovers.1 hp).2.2) t h

theorem grantEntries_wf (k : BankNo) (es : List Word) : ∀ t : PermTable, t.wf → (es.foldl (grantEntry k) t).wf := by
  induction es with
  | nil => exact fun _ h => h
  | cons e rest ih => exact fun t h => ih _ (grantEntry_wf h e)

theorem grantBanks_wf (m : Memory) (g : Word) (ks : List BankNo) : ∀ t : PermTable, t.wf → (ks.foldl (grantBank m g) t).wf := by
  induction ks with
  | nil => exact fun _ h => h
  | cons k rest ih => exact fun t h => ih _ (grantEntries_wf k _ t h)

theorem compiledTable_wf (m : Memory) (g : Word) : (compiledTable m g).wf :=
  grantBanks_wf m g _ [] ⟨⟨List.Pairwise.nil, fun _ h => absurd h List.not_mem_nil⟩, fun _ h => absurd h List.not_mem_nil⟩

/-! ## Flags -/

theorem flags_grantPages (k k' : BankNo) (f : Flags) {p : Nat} (hp : p < Config.pages) (ps : List Nat)
    (hps : ∀ q ∈ ps, q < Config.pages) : ∀ t : PermTable,
    (ps.foldl (fun t p => t.grant k p f) t).flags k' p =
      if k' = k ∧ p ∈ ps then t.flags k' p ||| f else t.flags k' p := by
  induction ps with
  | nil => intro t; simp
  | cons q rest ih =>
    intro t
    rw [List.foldl_cons, ih (fun r hr => hps r (by simp [hr])), PermTable.flags_grant t k k' (hps q (by simp)) hp]
    by_cases hk : k' = k <;> by_cases hq : p = q <;> by_cases hr : p ∈ rest <;> simp [hk, hq]
    all_goals (rw [hq] at hr; simp [hr, BitVec.or_assoc])

/-- An entry adds its flags to the pages it covers, in its bank (R75, R76). -/
theorem flags_grantEntry (k k' : BankNo) (t : PermTable) (e : Word) {p : Nat} (hp : p < Config.pages) :
    (grantEntry k t e).flags k' p = if k' = k ∧ p ∈ entryCovers e then t.flags k' p ||| entryFlags e else t.flags k' p :=
  flags_grantPages k k' _ hp _ (fun _ h => (mem_entryCovers.1 h).2.2) t

end Sys2Proof.Machine
end

