-- ==== Sys2Proof/Laws/Skipping.lean ====
section
/-! SUPPORT. What a conditional can do: go on, skip a chain of instructions, or raise GPFMEM (43_conditionals.md). -/

namespace Sys2Proof.Machine

/-! ## Skipping reads the selected bank, the ring mode and the compiled tables alone -/

section Same

variable (s : State) (v : Word) (c : Nat)

@[simp] theorem State.nextInstr_setPc (addr : Word) : (s.setPc v).nextInstr addr = s.nextInstr addr := rfl
@[simp] theorem State.nextInstr_addCycles (addr : Word) : (s.addCycles c).nextInstr addr = s.nextInstr addr := rfl
@[simp] theorem State.nextInstr_afterAB (b : BOperand) (a : AOperand) (addr : Word) :
    (s.afterAB b a).nextInstr addr = s.nextInstr addr := rfl

@[simp] theorem State.afterInstrs_setPc (n : Nat) : ∀ addr : Word, (s.setPc v).afterInstrs n addr = s.afterInstrs n addr := by
  induction n with
  | zero => intro _; rfl
  | succ n ih => intro addr; exact ih _

@[simp] theorem State.afterInstrs_addCycles (n : Nat) : ∀ addr : Word, (s.addCycles c).afterInstrs n addr = s.afterInstrs n addr := by
  induction n with
  | zero => intro _; rfl
  | succ n ih => intro addr; exact ih _

@[simp] theorem State.afterInstrs_afterAB (b : BOperand) (a : AOperand) (n : Nat) :
    ∀ addr : Word, (s.afterAB b a).afterInstrs n addr = s.afterInstrs n addr := by
  induction n with
  | zero => intro _; rfl
  | succ n ih => intro addr; exact ih _

@[simp] theorem State.skipChainAt_setPc (n : Nat) : ∀ addr : Word, (s.setPc v).skipChainAt n addr ↔ s.skipChainAt n addr := by
  induction n with
  | zero => intro _; exact Iff.rfl
  | succ n ih => intro addr; exact and_congr Iff.rfl (and_congr Iff.rfl (ih _))

@[simp] theorem State.skipChainAt_addCycles (n : Nat) : ∀ addr : Word, (s.addCycles c).skipChainAt n addr ↔ s.skipChainAt n addr := by
  induction n with
  | zero => intro _; exact Iff.rfl
  | succ n ih => intro addr; exact and_congr Iff.rfl (and_congr Iff.rfl (ih _))

@[simp] theorem State.skipChainAt_afterAB (b : BOperand) (a : AOperand) (n : Nat) :
    ∀ addr : Word, (s.afterAB b a).skipChainAt n addr ↔ s.skipChainAt n addr := by
  induction n with
  | zero => intro _; exact Iff.rfl
  | succ n ih => intro addr; exact and_congr Iff.rfl (and_congr Iff.rfl (ih _))

end Same

/-! ## The chain -/

/-- One instruction passed. -/
theorem skipChain_succ (fuel : Nat) (s : State) : skipChain (fuel + 1) s =
    if s.permits .execute s.pc then
      if s.conditionalAt s.pc then skipChain fuel ((s.setPc (s.nextInstr s.pc)).addCycles (1 + s.checkCycles 1))
      else .ok (some ((s.setPc (s.nextInstr s.pc)).addCycles (1 + s.checkCycles 1)))
    else .error { gpf := .mem, resume := some (s.pc + 1), cycles := s.cycles + 1 } := by
  show (skipFetch s >>= _) = _
  rw [skipFetch_eq]
  split
  · simp only [bind, Except.bind, State.addCycles_setPc, State.addCycles_addCycles, Nat.add_comm (s.checkCycles 1)]
    rfl
  · rfl

/-- A chain of `n` conditionals and one other instruction is passed whole (R199). -/
theorem skipChain_chain (n : Nat) : ∀ (fuel : Nat) (s : State), n < fuel → s.skipChainAt n s.pc →
    skipChain fuel s =
      .ok (some ((s.setPc (s.afterInstrs (n + 1) s.pc)).addCycles (n + 1 + s.checkCycles (n + 1)))) := by
  induction n with
  | zero =>
    intro fuel s hf h
    obtain ⟨f, rfl⟩ : ∃ f, fuel = f + 1 := ⟨fuel - 1, by omega⟩
    obtain ⟨hp, hc⟩ := h
    rw [skipChain_succ, if_pos hp, if_neg (by simp [hc])]
    rfl
  | succ n ih =>
    intro fuel s hf h
    obtain ⟨f, rfl⟩ : ∃ f, fuel = f + 1 := ⟨fuel - 1, by omega⟩
    obtain ⟨hp, hc, hr⟩ := h
    rw [skipChain_succ, if_pos hp, if_pos hc]
    rw [ih f _ (by omega) (by simpa using hr)]
    simp only [State.addCycles_setPc, State.setPc_setPc, State.addCycles_addCycles, State.afterInstrs_addCycles,
      State.afterInstrs_setPc, State.addCycles_pc, State.setPc_pc, State.checkCycles_addCycles, State.checkCycles_setPc]
    congr 3
    simp only [← State.checkCycles_add]; omega

/-- The address after one more instruction. -/
theorem State.afterInstrs_succ (s : State) (n : Nat) : ∀ addr : Word,
    s.afterInstrs (n + 1) addr = s.nextInstr (s.afterInstrs n addr) := by
  induction n with
  | zero => intro _; rfl
  | succ n ih => intro addr; exact ih (s.nextInstr addr)

theorem State.afterInstrs_add (s : State) (n m : Nat) (addr : Word) :
    s.afterInstrs (n + m) addr = s.afterInstrs m (s.afterInstrs n addr) := by
  induction m with
  | zero => rfl
  | succ m ih => rw [← Nat.add_assoc, State.afterInstrs_succ, ih, ← State.afterInstrs_succ]

/-- A chain, instruction by instruction. -/
theorem State.skipChainAt_iff (s : State) (n : Nat) : ∀ addr : Word, s.skipChainAt n addr ↔
    (∀ m, m < n → s.permits .execute (s.afterInstrs m addr) = true ∧ s.conditionalAt (s.afterInstrs m addr) = true) ∧
      s.permits .execute (s.afterInstrs n addr) = true ∧ s.conditionalAt (s.afterInstrs n addr) = false := by
  induction n with
  | zero => intro addr; simp [State.skipChainAt, State.afterInstrs]
  | succ n ih =>
    intro addr
    simp only [State.skipChainAt, ih]
    constructor
    · rintro ⟨h1, h2, h3, h4⟩
      refine ⟨fun m hm => ?_, h4⟩
      cases m with
      | zero => exact ⟨h1, h2⟩
      | succ m => exact h3 m (by omega)
    · rintro ⟨h1, h2⟩
      exact ⟨(h1 0 (by omega)).1, (h1 0 (by omega)).2, fun m hm => h1 (m + 1) (by omega), h2⟩

/-- An address the walk reaches for the first time is reached in fewer steps than the bank has words. -/
theorem State.afterInstrs_lt (s : State) (addr : Word) (n : Nat)
    (h : ∀ m, m < n → s.afterInstrs m addr ≠ s.afterInstrs n addr) : n < skipLimit := by
  have key : ∀ i j, i < j → j ≤ n → s.afterInstrs i addr ≠ s.afterInstrs j addr := by
    intro i j hij hj he
    refine h (i + (n - j)) (by omega) ?_
    rw [State.afterInstrs_add, he, ← State.afterInstrs_add, show j + (n - j) = n by omega]
  have inj : Function.Injective (fun m : Fin (n + 1) => (s.afterInstrs m.val addr).toFin) := by
    intro i j hij
    have he : s.afterInstrs i.val addr = s.afterInstrs j.val addr := BitVec.toFin_injective hij
    rcases Nat.lt_trichotomy i.val j.val with hl | hl | hl
    · exact absurd he (key _ _ hl (by omega))
    · exact Fin.ext hl
    · exact absurd he.symm (key _ _ hl (by omega))
  have := Fintype.card_le_of_injective _ inj
  simp only [Fintype.card_fin] at this
  unfold skipLimit Config.bankWords; omega

/-- Every chain that ends is short enough for the model to pass it. -/
theorem State.skipChainAt_lt {s : State} {n : Nat} {addr : Word} (h : s.skipChainAt n addr) : n < skipLimit := by
  obtain ⟨h1, _, h3⟩ := (s.skipChainAt_iff n addr).1 h
  refine s.afterInstrs_lt addr n fun m hm he => ?_
  have := (h1 m hm).2
  rw [he, h3] at this; cases this

/-- Passing conditionals goes on as long as there is fuel. -/
theorem skipChain_conditionals (n : Nat) : ∀ (fuel : Nat) (s : State),
    (∀ m, m < n → s.permits .execute (s.afterInstrs m s.pc) = true ∧ s.conditionalAt (s.afterInstrs m s.pc) = true) →
    skipChain (n + fuel) s = skipChain fuel ((s.setPc (s.afterInstrs n s.pc)).addCycles (n + s.checkCycles n)) := by
  induction n with
  | zero =>
    intro fuel s _
    rw [Nat.zero_add, show s.checkCycles 0 = 0 by simp [State.checkCycles]]; rfl
  | succ n ih =>
    intro fuel s h
    have h0 : s.permits .execute s.pc = true ∧ s.conditionalAt s.pc = true := h 0 (by omega)
    rw [show n + 1 + fuel = n + fuel + 1 by omega, skipChain_succ, if_pos h0.1, if_pos h0.2,
      ih fuel ((s.setPc (s.nextInstr s.pc)).addCycles (1 + s.checkCycles 1)) (fun m hm => by
        have e : ((s.setPc (s.nextInstr s.pc)).addCycles (1 + s.checkCycles 1)).afterInstrs m (s.nextInstr s.pc) =
            s.afterInstrs (m + 1) s.pc := by
          rw [State.afterInstrs_addCycles, State.afterInstrs_setPc]; rfl
        rw [show ((s.setPc (s.nextInstr s.pc)).addCycles (1 + s.checkCycles 1)).pc = s.nextInstr s.pc from rfl, e]
        exact h (m + 1) (by omega))]
    simp only [State.addCycles_setPc, State.setPc_setPc, State.addCycles_addCycles, State.afterInstrs_addCycles,
      State.afterInstrs_setPc, State.addCycles_pc, State.setPc_pc, State.checkCycles_addCycles, State.checkCycles_setPc]
    show skipChain fuel ((s.setPc (s.afterInstrs (n + 1) s.pc)).addCycles _) = _
    congr 2
    simp only [← State.checkCycles_add]; omega

/-- A first word of the chain, reached over `n` conditionals, that may not be fetched. -/
theorem skipChain_denied {n : Nat} {s : State} (hn : n < skipLimit)
    (h : ∀ m, m < n → s.permits .execute (s.afterInstrs m s.pc) = true ∧ s.conditionalAt (s.afterInstrs m s.pc) = true)
    (hd : s.permits .execute (s.afterInstrs n s.pc) = false) : skipChain skipLimit s =
      .error { gpf := .mem, resume := some (s.afterInstrs n s.pc + 1), cycles := s.cycles + (2 * n + 1) } := by
  obtain ⟨f, hf⟩ : ∃ f, skipLimit = n + (f + 1) := ⟨skipLimit - n - 1, by omega⟩
  have hu : s.userMode = true := State.userMode_of_denied (by rw [hd]; simp)
  rw [hf, skipChain_conditionals n _ _ h, skipChain_succ, if_neg (by
    show ¬s.permits .execute (s.afterInstrs n s.pc) = true
    rw [hd]; simp), State.checkCycles_user hu]
  show Except.error (Denial.mk _ _ (s.cycles + (n + n) + 1)) = _
  rw [show s.cycles + (n + n) + 1 = s.cycles + (2 * n + 1) by omega]; rfl

/-- What passing a chain can do: only pc and the cycle counter change. -/
theorem skipChain_ok (fuel : Nat) : ∀ (s : State) (o : Option State), skipChain fuel s = .ok o →
    o = none ∨ ∃ p c, o = some ((s.setPc p).addCycles c) := by
  induction fuel with
  | zero => intro s o h; cases h; exact Or.inl rfl
  | succ fuel ih =>
    intro s o h
    rw [skipChain_succ] at h
    split at h
    · split at h
      · rcases ih _ _ h with rfl | ⟨p, c, rfl⟩
        · exact Or.inl rfl
        · exact Or.inr ⟨p, _, by simp only [State.addCycles_setPc, State.setPc_setPc, State.addCycles_addCycles]; rfl⟩
      · cases h; exact Or.inr ⟨_, _, rfl⟩
    · cases h

/-- What deciding a test can do. -/
theorem decideSkip_ok {holds : Bool} {s t : State} (h : decideSkip holds s = .ok (.next t)) :
    ∃ p c, t = (s.setPc p).addCycles c := by
  unfold decideSkip at h
  cases holds with
  | true => cases h; exact ⟨s.pc, 2, rfl⟩
  | false =>
    simp only [Bool.false_eq_true, if_false, bind, Except.bind] at h
    split at h
    · cases h
    · rename_i o ho
      rcases skipChain_ok _ _ _ ho with rfl | ⟨p, c, rfl⟩
      · cases h
      · cases h; exact ⟨p, c + 2, by simp⟩

/-- The shape of every conditional (R190). -/
theorem conditional_eq (cond : Word → Word → Bool) (b : BOperand) (a : AOperand) (s : State) :
    conditional cond b a s =
      if s.allowsCompare b a then
        settle (basicLength b a) s (decideSkip (cond (s.valueB b a) (s.valueA a)) ((s.afterAB b a).addCycles
          (a.words + b.words +
            s.checkCycles (1 + a.words + b.words + (s.locA a).accesses + (s.locB b a).accesses))))
      else raiseGpf .mem (s.pc + BitVec.ofNat 16 (basicLength b a))
        (s.addCycles (s.userCycles (s.compareAccesses b a))) := by
  unfold conditional State.allowsCompare State.compareAccesses
  rw [readOperands_eq, ← settle_error]
  by_cases h1 : (s.allowsWords (a.words + b.words) && s.allows .read (s.locA a)) = true
  · rw [if_pos h1, h1, State.userCycles, State.spentOn_operands h1, State.spentOn_loc']
    simp only [bind, Except.bind, readOp_eq, State.addCycles_allows, State.afterAB_allows, Bool.true_and]
    by_cases h4 : s.allows .read (s.locB b a) = true
    · simp only [h4, if_true, State.addCycles_addCycles, State.addCycles_valueAt,
        State.checkCycles_addCycles, State.afterAB_checkCycles]
      unfold State.valueB
      refine congrArg (fun c => settle _ s (decideSkip _ ((s.afterAB b a).addCycles c))) ?_
      simp only [← State.checkCycles_add]; omega
    · have hu := State.userMode_of_disallowed h4
      simp only [h4, Bool.false_eq_true, if_false, State.addCycles_cycles, State.afterAB_cycles,
        State.checkCycles_user hu]
      congr 3; omega
  · rw [if_neg h1, State.userCycles, State.userCycles, State.spentOn_operands_denied h1]
    simp only [Bool.not_eq_true] at h1
    simp only [h1, Bool.false_and, Bool.false_eq_true, if_false]
    rfl

end Sys2Proof.Machine
end

