-- ==== Sys2Proof/Laws/Exec.lean ====
section
/-! SUPPORT. Everything one instruction can do when it answers a next state: one inversion lemma for each shape of
instruction, and one for `exec`. -/

namespace Sys2Proof.Machine

/-- An ordinary effect: A to J, PC, SP and EX may change, and words of the selected bank that may be written. -/
structure State.Ordinary (s t : State) : Prop where
  system : s.SameSystem t
  mem_wf : s.mem.wf → t.mem.wf
  bank : ∀ k w, t.bank k w ≠ s.bank k w → k = s.mb ∧ s.permits .write w = true

/-- A GPF has been raised, so this is user mode; only the cycle counter had moved. -/
def State.Abandons (s t : State) : Prop := s.userMode = true ∧ ∃ g r n, raiseGpf g r (s.setCycles n) = .next t

section Shapes

variable {s t : State} {a : AOperand} {b : BOperand}

theorem State.Ordinary.of_leaves {pc sp : Word} {l : Loc} {v : Word} {ex : Option Word} (h : s.Leaves t pc sp l v ex)
    (hw : s.mem.wf → t.mem.wf) (hl : s.allows .write l = true) : s.Ordinary t := by
  refine ⟨h.system, hw, fun k w hk => ?_⟩
  rw [h.mem] at hk
  split at hk
  · next hc => refine ⟨hc.1, ?_⟩; rw [hc.2] at hl; exact hl
  · exact absurd rfl hk

theorem State.store_wf (h : s.mem.wf) (l : Loc) (v : Word) : (s.store l v).mem.wf := by
  cases l with
  | mem addr => exact Memory.setWord_wf h _ _ _
  | reg r => exact h
  | sp => exact h
  | pc => exact h
  | ex => exact h
  | lit v => exact h

theorem State.setExIf_mem (s : State) (o : Option Word) : (s.setExIf o).mem = s.mem := by cases o <;> rfl

theorem State.userMode_of_not {p : Prop} (h : s.userMode = false → p) (hn : ¬p) : s.userMode = true := by
  rcases Bool.eq_false_or_eq_true s.userMode with hu | hu
  · exact hu
  · exact absurd (h hu) hn

/-- Basic instructions that read and write b. -/
theorem readModifyWrite_next {cost : Nat} {f : Word → Word → Word → Word × Option Word}
    (h : readModifyWrite cost f b a s = .next t) :
    s.Abandons t ∨ s.allowsReadModifyWrite b a = true ∧ s.Ordinary t ∧
      s.SetsB t b a (f s.ex (s.valueB b a) (s.valueA a)).1 (f s.ex (s.valueB b a) (s.valueA a)).2 := by
  rw [readModifyWrite_eq] at h
  split at h
  · next ha =>
    cases h
    have hl := s.setsB_store b a (cost + a.words + b.words + s.checkCycles (1 + a.words + b.words + (s.locA a).accesses +
      2 * (s.locB b a).accesses)) (f s.ex (s.valueB b a) (s.valueA a)).2 (f s.ex (s.valueB b a) (s.valueA a)).1
    refine Or.inr ⟨ha, .of_leaves hl (fun hw => ?_) ?_, hl⟩
    · show Memory.wf (State.setExIf _ _).mem
      rw [State.setExIf_mem]; exact State.store_wf (s := s.afterAB b a) hw _ _
    · simp only [State.allowsReadModifyWrite, Bool.and_eq_true] at ha; exact ha.2
  · next ha => exact Or.inl ⟨State.userMode_of_not (s.allowsReadModifyWrite_kernel b a) ha, _, _, _, h⟩

/-- SET, STI, STD. -/
theorem moveThen_next {cost : Nat} {after : State → State}
    (hafter : ∀ t n, after (State.addCycles t n) = (after t).addCycles n)
    (h : moveThen cost after b a s = .next t) :
    s.Abandons t ∨ s.allowsMove b a = true ∧ ∃ u n, t = (after u).addCycles n ∧ s.Ordinary u ∧
      s.SetsB u b a (s.valueA a) none := by
  rw [moveThen_eq b a s cost after hafter] at h
  split at h
  · next ha =>
    cases h
    have hl := s.setsB_store b a 0 none (s.valueA a)
    refine Or.inr ⟨ha, _, _, rfl, .of_leaves hl (fun hw => State.store_wf (s := s.afterAB b a) hw _ _) ?_, hl⟩
    simp only [State.allowsMove, Bool.and_eq_true] at ha; exact ha.2
  · next ha => exact Or.inl ⟨State.userMode_of_not (s.allowsMove_kernel b a) ha, _, _, _, h⟩

/-- MBG, IAG, GRM, DRM, HWN. -/
theorem setOperand_next {cost : Nat} {value : State → Word} {after : State → State}
    (hvalue : ∀ (t : State) n, value (t.addCycles n) = value t)
    (hafter : ∀ (t : State) n, after (t.addCycles n) = (after t).addCycles n)
    (h : setOperand cost value after a s = .next t) :
    s.Abandons t ∨ s.allowsTarget a = true ∧ ∃ u n, t = (after u).addCycles n ∧ s.Ordinary u ∧
      s.SetsA u a (value (s.afterA a)) := by
  rw [setOperand_eq a s cost value after hvalue hafter] at h
  split at h
  · next ha =>
    cases h
    have hl := s.setsA_store a 0 (value (s.afterA a))
    refine Or.inr ⟨ha, _, _, rfl, .of_leaves hl (fun hw => State.store_wf (s := s.afterA a) hw _ _) ?_, hl⟩
    simp only [State.allowsTarget, Bool.and_eq_true] at ha; exact ha.2
  · next ha => exact Or.inl ⟨State.userMode_of_not (s.allowsTarget_kernel a) ha, _, _, _, h⟩

/-- The conditionals. -/
theorem conditional_next {cond : Word → Word → Bool} (h : conditional cond b a s = .next t) :
    s.Abandons t ∨ ∃ p c, t = ((s.afterAB b a).setPc p).addCycles c := by
  rw [conditional_eq] at h
  split at h
  · rcases settle_next h with h | ⟨d, h, hg⟩
    · obtain ⟨p, c, rfl⟩ := decideSkip_ok h
      exact Or.inr ⟨p, _, by rw [State.addCycles_setPc, State.addCycles_addCycles]⟩
    · refine Or.inl ⟨?_, _, _, _, hg⟩
      rcases Bool.eq_false_or_eq_true s.userMode with hu | hu
      · exact hu
      · exfalso
        have hno : ∀ (fuel : Nat) (u : State), u.userMode = false → ∀ d, skipChain fuel u ≠ .error d := by
          intro fuel
          induction fuel with
          | zero => intro u _ d hd; cases hd
          | succ f ih =>
            intro u hu d hd
            rw [skipChain_succ, if_pos (State.permits_kernel hu _ _)] at hd
            split at hd
            · exact ih _ (by simpa using hu) d hd
            · cases hd
        unfold decideSkip at h
        split at h
        · cases h
        · simp only [bind, Except.bind] at h
          split at h
          · rename_i hd; exact hno _ _ (by simpa using hu) _ hd
          · split at h <;> cases h
  · next ha => exact Or.inl ⟨State.userMode_of_not (s.allowsCompare_kernel b a) ha, _, _, _, h⟩

/-- Special instructions that read a. -/
theorem withValue_next {act : Word → State → Attempt Result} (h : withValue a s act = .next t) :
    s.Abandons t ∨ s.allowsSource a = true ∧ settle (specialLength a) s (act (s.valueA a) ((s.afterA a).addCycles
      (a.words + s.checkCycles (1 + a.words + (s.locA a).accesses)))) = .next t := by
  rw [withValue_eq] at h
  split at h
  · next ha => exact Or.inr ⟨ha, h⟩
  · next ha => exact Or.inl ⟨State.userMode_of_not (s.allowsSource_kernel a) ha, _, _, _, h⟩

theorem State.ordinary_afterAB (p : Word) (c : Nat) : s.Ordinary (((s.afterAB b a).setPc p).addCycles c) :=
  ⟨⟨rfl, rfl, rfl, rfl, rfl, rfl, rfl, rfl, rfl, rfl, rfl, rfl, rfl⟩, id, fun _ _ h => absurd rfl h⟩

theorem State.ordinary_afterA (c : Nat) : s.Ordinary ((s.afterA a).addCycles c) :=
  ⟨⟨rfl, rfl, rfl, rfl, rfl, rfl, rfl, rfl, rfl, rfl, rfl, rfl, rfl⟩, id, fun _ _ h => absurd rfl h⟩

theorem State.Ordinary.addCycles (h : s.Ordinary t) (c : Nat) : s.Ordinary (t.addCycles c) :=
  ⟨⟨h.system.ia, h.system.mb, h.system.rm, h.system.iq, h.system.queue, h.system.srtCalled, h.system.perm,
    h.system.gdtMsg, h.system.onFire, h.system.devices, h.system.deviceEvents, h.system.hwiAnswers,
    h.system.freeCount⟩, h.mem_wf, h.bank⟩

theorem State.Ordinary.stepIJ (h : s.Ordinary t) (d : Word) : s.Ordinary (t.stepIJ d) :=
  ⟨⟨h.system.ia, h.system.mb, h.system.rm, h.system.iq, h.system.queue, h.system.srtCalled, h.system.perm,
    h.system.gdtMsg, h.system.onFire, h.system.devices, h.system.deviceEvents, h.system.hwiAnswers,
    h.system.freeCount⟩, h.mem_wf, h.bank⟩

end Shapes

/-! ## The instructions that do more -/

/-- What the instructions beyond the ordinary do from state `s` to state `t`, in kernel mode. -/
inductive State.KernelEffect (s t : State) : Instr → Prop
  | mbo {a : AOperand} {c : Nat} (h : t = (((s.afterA a).setMb (mboSelect (s.valueA a))).setMem
      (mboCopy (s.valueA a) s.mem)).addCycles c) : State.KernelEffect s t (.mbo a)
  | ias {a : AOperand} {c : Nat} (h : t = ((s.afterA a).setIa (s.valueA a)).addCycles c) : State.KernelEffect s t (.ias a)
  | rfi {a : AOperand} {c : Nat} {r p q m : Word} (h : t = (((((((s.afterA a).setIq false).setReg .a r).setPc p).setSp q).setRm
      (if s.srtCalled then m else s.rm))).addCycles c) : State.KernelEffect s t (.rfi a)
  | iaq {a : AOperand} {c : Nat} (h : t = ((s.afterA a).setIq (s.valueA a != 0)).addCycles c) : State.KernelEffect s t (.iaq a)
  | hwq {a : AOperand} {c n : Nat} {p q r x y : Word} (h : t = (((s.afterA a).setHwqRegs p q r x y).drawFree n).addCycles c) :
      State.KernelEffect s t (.hwq a)
  | hwi {a : AOperand} {c : Nat} {d : Device} (hd : s.devices[(s.valueA a).toNat]? = some d)
      (h : deviceWrites d.info s.hwiAnswer.writes ((((s.afterA a).markHwi (s.valueA a).toNat).setHwiAnswers
        s.hwiAnswers.tail).addCycles c) = .next t) : State.KernelEffect s t (.hwi a)
  | srt {a : AOperand} {c : Nat} (h : t = ((s.afterA a).setTables (s.bank 0 (s.valueA a))
      (compiledTable s.mem (s.valueA a))).addCycles c) : State.KernelEffect s t (.srt a)

/-- What an instruction that answers a next state has done. -/
inductive State.Executed (s t : State) : Instr → Prop
  | ordinary {i : Instr} (h : s.Ordinary t) : State.Executed s t i
  | gpf {i : Instr} (h : s.Abandons t) : State.Executed s t i
  | drm {a : AOperand} {u : State} {c : Nat} (h : s.Ordinary u) (ht : t = (u.setRm 1).addCycles c) :
      State.Executed s t (.drm a)
  | int {a : AOperand} {c : Nat} (h : triggerSoft (s.valueA a) ((s.afterA a).addCycles c) = .next t) :
      State.Executed s t (.int a)
  | kernel {i : Instr} (hu : s.userMode = false) (h : s.KernelEffect t i) : State.Executed s t i

section Privileged

variable {s t : State} {a : AOperand}

theorem kernelOnly_withValue {act : Word → State → Result} (h : kernelOnly (specialLength a) s
    (withValue a s fun va u => .ok (act va u)) = .next t) :
    s.Abandons t ∨ s.userMode = false ∧ ∃ c, act (s.valueA a) ((s.afterA a).addCycles c) = .next t := by
  rcases kernelOnly_next h with ⟨hu, h⟩ | ⟨hu, h⟩
  · rcases withValue_next h with h | ⟨_, h⟩
    · exact Or.inl h
    · exact Or.inr ⟨hu, _, h⟩
  · exact Or.inl ⟨hu, _, _, _, h⟩

theorem execRfi_next (h : execRfi a s = .next t) : State.Executed s t (.rfi a) := by
  rcases kernelOnly_next h with ⟨hu, h⟩ | ⟨hu, h⟩
  · rcases withValue_next h with h | ⟨_, h⟩
    · exact .gpf h
    · rw [returnFromInterrupt_kernel _ (by simpa using hu)] at h
      cases h
      refine .kernel hu (.rfi (r := (s.afterA a).bank s.mb (s.afterA a).sp) (p := (s.afterA a).bank s.mb ((s.afterA a).sp + 1))
        (q := (s.afterA a).sp + BitVec.ofNat 16 s.frameWords) (m := (s.afterA a).bank s.mb ((s.afterA a).sp + 2))
        (c := a.words + s.checkCycles (1 + a.words + (s.locA a).accesses) + 3) ?_)
      simp only [State.addCycles_setIq, State.addCycles_setReg, State.addCycles_setPc, State.addCycles_setSp,
        State.addCycles_setRm, State.addCycles_addCycles]
      rfl
  · exact .gpf ⟨hu, _, _, _, h⟩

end Privileged

/-- JSR writes one word of the stack, if it may. -/
theorem execJsr_next {s t : State} {a : AOperand} (h : execJsr a s = .next t) : State.Executed s t (.jsr a) := by
  rcases withValue_next h with h | ⟨_, h⟩
  · exact .gpf h
  · rcases settle_next h with h | ⟨d, h, hg⟩
    · rw [push_eq] at h
      split at h
      · next hp =>
        cases h
        refine .ordinary ⟨⟨rfl, rfl, rfl, rfl, rfl, rfl, rfl, rfl, rfl, rfl, rfl, rfl, rfl⟩,
          fun hw => Memory.setWord_wf hw _ _ _, fun k w hk => ?_⟩
        simp only [State.bank] at hk
        change Memory.word (Memory.setWord _ _ _ _) k w ≠ _ at hk
        rw [Memory.word_setWord] at hk
        split at hk
        · next hc => obtain ⟨rfl, rfl⟩ := hc; exact ⟨rfl, hp⟩
        · exact absurd rfl hk
      · cases h
    · refine .gpf ⟨?_, _, _, _, hg⟩
      refine State.userMode_of_not (fun hu => ?_) (not_false)
      rw [push_eq, if_pos (State.permits_kernel (by simpa using hu) _ _)] at h
      cases h

/-! ## Each shape of instruction -/

section Executed

variable {s t : State} {i : Instr} {cost : Nat} {b : BOperand} {a : AOperand}

theorem readModifyWrite_executed {f : Word → Word → Word → Word × Option Word}
    (h : readModifyWrite cost f b a s = .next t) : State.Executed s t i := by
  rcases readModifyWrite_next h with h | ⟨_, h, _⟩
  exacts [.gpf h, .ordinary h]

theorem conditional_executed {cond : Word → Word → Bool} (h : conditional cond b a s = .next t) :
    State.Executed s t i := by
  rcases conditional_next h with h | ⟨_, _, rfl⟩
  exacts [.gpf h, .ordinary (State.ordinary_afterAB _ _)]

theorem execSet_next (h : execSet b a s = .next t) : State.Executed s t i := by
  rcases moveThen_next (fun _ _ => rfl) h with h | ⟨_, _, _, rfl, h, _⟩
  exacts [.gpf h, .ordinary (h.addCycles _)]

theorem State.stepIJ_addCycles (u : State) (n : Nat) (d : Word) : (u.addCycles n).stepIJ d = (u.stepIJ d).addCycles n := rfl

theorem execSti_next (h : execSti b a s = .next t) : State.Executed s t i := by
  rcases moveThen_next (fun u n => u.stepIJ_addCycles n _) h with h | ⟨_, u, n, rfl, h, _⟩
  exacts [.gpf h, .ordinary ((h.stepIJ _).addCycles _)]

theorem execStd_next (h : execStd b a s = .next t) : State.Executed s t i := by
  rcases moveThen_next (fun u n => u.stepIJ_addCycles n _) h with h | ⟨_, u, n, rfl, h, _⟩
  exacts [.gpf h, .ordinary ((h.stepIJ _).addCycles _)]

theorem setOperand_executed {value : State → Word} (hv : ∀ (t : State) n, value (t.addCycles n) = value t)
    (h : setOperand cost value id a s = .next t) : State.Executed s t i := by
  rcases setOperand_next hv (fun _ _ => rfl) h with h | ⟨_, _, _, rfl, h, _⟩
  exacts [.gpf h, .ordinary (h.addCycles _)]

theorem execMbg_next (h : execMbg a s = .next t) : State.Executed s t i := setOperand_executed (fun _ _ => rfl) h
theorem execIag_next (h : execIag a s = .next t) : State.Executed s t i := setOperand_executed (fun _ _ => rfl) h
theorem execGrm_next (h : execGrm a s = .next t) : State.Executed s t i := setOperand_executed (fun _ _ => rfl) h

theorem execHwn_next (h : execHwn a s = .next t) : State.Executed s t i := by
  rcases kernelOnly_next h with ⟨hu, h⟩ | ⟨hu, h⟩
  · exact setOperand_executed (fun _ _ => rfl) h
  · exact .gpf ⟨hu, _, _, _, h⟩

theorem execDrm_next (h : execDrm a s = .next t) : State.Executed s t (.drm a) := by
  rcases setOperand_next (fun _ _ => rfl) (fun _ _ => rfl) h with h | ⟨_, _, _, rfl, h, _⟩
  exacts [.gpf h, .drm h rfl]

theorem execInt_next (h : execInt a s = .next t) : State.Executed s t (.int a) := by
  rcases withValue_next h with h | ⟨_, h⟩
  · exact .gpf h
  · refine .int (c := a.words + s.checkCycles (1 + a.words + (s.locA a).accesses) + 4) ?_
    rw [← State.addCycles_addCycles]; exact h

theorem execMbo_next (h : execMbo a s = .next t) : State.Executed s t (.mbo a) := by
  unfold execMbo at h
  rcases kernelOnly_withValue h with h | ⟨hu, c, h⟩
  · exact .gpf h
  · cases h
    exact .kernel hu (.mbo (c := c + mboCycles (s.valueA a) s.mb)
      (by simp only [State.addCycles_setMb, State.addCycles_setMem, State.addCycles_addCycles]; rfl))

theorem execIas_next (h : execIas a s = .next t) : State.Executed s t (.ias a) := by
  unfold execIas at h
  rcases kernelOnly_withValue h with h | ⟨hu, c, h⟩
  · exact .gpf h
  · cases h
    exact .kernel hu (.ias (c := c + 1) (by simp only [State.addCycles_setIa, State.addCycles_addCycles]))

theorem execIaq_next (h : execIaq a s = .next t) : State.Executed s t (.iaq a) := by
  unfold execIaq at h
  rcases kernelOnly_withValue h with h | ⟨hu, c, h⟩
  · exact .gpf h
  · cases h
    exact .kernel hu (.iaq (c := c + 2) (by simp only [State.addCycles_setIq, State.addCycles_addCycles]))

theorem execHwq_next (h : execHwq a s = .next t) : State.Executed s t (.hwq a) := by
  unfold execHwq at h
  rcases kernelOnly_withValue h with h | ⟨hu, c, h⟩
  · exact .gpf h
  · obtain ⟨p, q, r, x, y, n, hq⟩ := queryDevice_frame (s.valueA a) ((s.afterA a).addCycles c)
    cases h
    refine .kernel hu (.hwq (c := c + 4) (p := p) (q := q) (r := r) (x := x) (y := y) (n := n) ?_)
    rw [hq, ← State.addCycles_addCycles]; rfl

theorem execHwi_next (h : execHwi a s = .next t) : State.Executed s t (.hwi a) := by
  unfold execHwi at h
  rcases kernelOnly_withValue h with h | ⟨hu, c, h⟩
  · exact .gpf h
  · obtain ⟨d, hd, h⟩ := sendHwi_next h
    refine .kernel hu (.hwi (c := c + (4 + s.hwiAnswer.extraCycles)) hd ?_)
    rw [← h, ← State.addCycles_addCycles]; rfl

theorem execSrt_next (h : execSrt a s = .next t) : State.Executed s t (.srt a) := by
  unfold execSrt at h
  rcases kernelOnly_withValue h with h | ⟨hu, c, h⟩
  · exact .gpf h
  · cases h
    exact .kernel hu (.srt (c := c + 4)
      (by simp only [compileTables, State.addCycles_setTables, State.addCycles_addCycles]; rfl))

end Executed

/-- Everything an instruction can do. -/
theorem exec_next {i : Instr} {s t : State} (h : exec i s = .next t) : State.Executed s t i := by
  cases i with
  | set b a => exact execSet_next h
  | add b a => exact readModifyWrite_executed h
  | sub b a => exact readModifyWrite_executed h
  | mul b a => exact readModifyWrite_executed h
  | mli b a => exact readModifyWrite_executed h
  | div b a => exact readModifyWrite_executed h
  | dvi b a => exact readModifyWrite_executed h
  | mod b a => exact readModifyWrite_executed h
  | mdi b a => exact readModifyWrite_executed h
  | and b a => exact readModifyWrite_executed h
  | bor b a => exact readModifyWrite_executed h
  | xor b a => exact readModifyWrite_executed h
  | shr b a => exact readModifyWrite_executed h
  | asr b a => exact readModifyWrite_executed h
  | shl b a => exact readModifyWrite_executed h
  | ifb b a => exact conditional_executed h
  | ifc b a => exact conditional_executed h
  | ife b a => exact conditional_executed h
  | ifn b a => exact conditional_executed h
  | ifg b a => exact conditional_executed h
  | ifa b a => exact conditional_executed h
  | ifl b a => exact conditional_executed h
  | ifu b a => exact conditional_executed h
  | adx b a => exact readModifyWrite_executed h
  | sbx b a => exact readModifyWrite_executed h
  | sti b a => exact execSti_next h
  | std b a => exact execStd_next h
  | jsr a => exact execJsr_next h
  | mbg a => exact execMbg_next h
  | mbo a => exact execMbo_next h
  | int a => exact execInt_next h
  | iag a => exact execIag_next h
  | ias a => exact execIas_next h
  | rfi a => exact execRfi_next h
  | iaq a => exact execIaq_next h
  | hwn a => exact execHwn_next h
  | hwq a => exact execHwq_next h
  | hwi a => exact execHwi_next h
  | grm a => exact execGrm_next h
  | drm a => exact execDrm_next h
  | srt a => exact execSrt_next h
  | basic18 b a => cases h
  | basic19 b a => cases h
  | basic1c b a => cases h
  | basic1d b a => cases h
  | special00 a => cases h
  | special02 a => cases h
  | special03 a => cases h
  | special04 a => cases h
  | special07 a => cases h
  | special0d a => cases h
  | special0e a => cases h
  | special0f a => cases h
  | special13 a => cases h
  | special14 a => cases h
  | special15 a => cases h
  | special19 a => cases h
  | special1a a => cases h
  | special1b a => cases h
  | special1c a => cases h
  | special1d a => cases h
  | special1e a => cases h
  | special1f a => cases h

/-! ## The step -/

theorem interruptPhase_next {s t : State} (h : interruptPhase s = .next t) :
    ((s.iq = true ∨ s.queue = []) ∧ t = s) ∨ ∃ m rest, s.iq = false ∧ s.queue = m :: rest ∧
      deliver m (s.setQueue rest).addUnstatedCycles = .next t := by
  unfold interruptPhase at h
  split at h
  · next hq => cases h; exact Or.inl ⟨Or.inl hq, rfl⟩
  · next hq =>
    split at h
    · next hn => cases h; exact Or.inl ⟨Or.inr hn, rfl⟩
    · next m rest hn => exact Or.inr ⟨m, rest, by simpa using hq, hn, h⟩

theorem instructionPhase_next {s t : State} (h : instructionPhase s = .next t) : State.Executed s t s.instrAtPc := by
  unfold instructionPhase at h
  split at h
  · exact exec_next h
  · next hp => exact .gpf ⟨State.userMode_of_not (fun hu => State.permits_kernel hu _ _) hp, _, _, s.consult.cycles, by rw [← h]; exact congrArg _ (State.consult_setCycles s).symm⟩

theorem step_next {s t : State} (h : step s = .next t) : s.onFire = false ∧ ∃ u v,
    devicePhase s = .next u ∧ interruptPhase u = .next v ∧ instructionPhase v = .next t := by
  unfold step at h
  split at h
  · cases h
  · next hf =>
    obtain ⟨u, hu, h⟩ := andThen_next h
    obtain ⟨v, hv, h⟩ := andThen_next h
    exact ⟨by simpa using hf, u, v, hu, hv, h⟩

end Sys2Proof.Machine
end

