-- ==== Sys2Proof/Laws/Effects.lean ====
section
/-! SUPPORT. What triggering an interrupt leaves unchanged, the frame of interrupt entry, and the shapes of instructions in
kernel mode, where nothing is checked and nothing is paid for checks. -/

namespace Sys2Proof.Machine

/-! ## Triggered interrupts -/

/-- What a delivered, queued or dropped interrupt leaves: only A, PC, SP, RM, IQ, the queue and pushed words can change,
and words only where they may be written (60_exceptions.md R277 to R281). -/
structure State.Triggered (s t : State) : Prop where
  mb : t.mb = s.mb
  ia : t.ia = s.ia
  perm : t.perm = s.perm
  gdtMsg : t.gdtMsg = s.gdtMsg
  srtCalled : t.srtCalled = s.srtCalled
  devices : t.devices = s.devices
  onFire : t.onFire = s.onFire
  ex : t.ex = s.ex
  iq : s.iq = true → t.iq = true
  queue : t.queue = s.queue ∨ ∃ m, t.queue = s.queue ++ [m]
  queue_le : s.queue.length ≤ Config.queueLimit → t.queue.length ≤ Config.queueLimit
  mem_wf : s.mem.wf → t.mem.wf
  rm : t.rm = s.rm ∨ (s.srtCalled = true ∧ s.iq = false ∧ s.ia ≠ 0 ∧ t.pc = s.ia ∧ t.iq = true ∧ t.rm = 0)
  bank : ∀ k w, t.bank k w ≠ s.bank k w → k = s.mb ∧ s.permits .write w = true

section Triggered

variable {s t : State} {m : Word}

theorem State.triggered_refl (s : State) : s.Triggered s :=
  ⟨rfl, rfl, rfl, rfl, rfl, rfl, rfl, rfl, id, .inl rfl, id, id, .inl rfl, fun _ _ h => absurd rfl h⟩

theorem State.triggered_entered (hq : s.iq = false) (hi : s.ia ≠ 0) (hf : s.allowsFrame = true) (c : Nat) :
    s.Triggered ((s.entered m).addCycles c) := by
  refine ⟨rfl, rfl, rfl, rfl, rfl, rfl, rfl, rfl, fun _ => rfl, .inl rfl, id, fun h => State.frameMem_wf h, ?_, ?_⟩
  · by_cases hs : s.srtCalled = true
    · exact .inr ⟨hs, hq, hi, rfl, rfl, if_pos hs⟩
    · exact .inl (if_neg hs)
  · intro k w hk
    obtain ⟨h1, h2⟩ := State.frameMem_word (s := s) (k := k) (w := w) hk
    refine ⟨h1, ?_⟩
    simp only [State.allowsFrame, Bool.and_eq_true, Bool.or_eq_true, Bool.not_eq_true'] at hf
    rcases h2 with rfl | rfl | ⟨h, rfl⟩
    · exact hf.1.1
    · exact hf.1.2
    · exact hf.2.resolve_left (by simp [h])

theorem deliver_triggered (h : deliver m s = .next t) (hq : s.iq = false) : s.Triggered t := by
  rcases deliver_next h with ⟨_, rfl⟩ | ⟨hi, hf, rfl⟩
  · exact State.triggered_refl _
  · exact State.triggered_entered hq hi hf _

theorem triggerSoft_triggered (h : triggerSoft m s = .next t) : s.Triggered t := by
  rcases triggerSoft_next h with ⟨_, hl, rfl⟩ | ⟨_, _, rfl⟩ | ⟨hq, hi, hf, rfl⟩
  · refine ⟨rfl, rfl, rfl, rfl, rfl, rfl, rfl, rfl, id, .inr ⟨m, rfl⟩, fun _ => ?_, id, .inl rfl,
      fun _ _ h => absurd rfl h⟩
    simp; omega
  · exact State.triggered_refl _
  · exact State.triggered_entered hq hi hf _

/-- Raising a GPF changes nothing but what its interrupt changes, and pc. -/
theorem State.Abandons.triggered (h : s.Abandons t) : s.Triggered t := by
  obtain ⟨_, g, r, n, h⟩ := h
  obtain ⟨h1, h2, h3, h4, h5, h6, h7, h8, h9, h10, h11, h12, h13, h14⟩ := triggerSoft_triggered h
  exact ⟨h1, h2, h3, h4, h5, h6, h7, h8, h9, h10, h11, h12, h13, h14⟩

/-- The state that entry leads to has the registers and the frame of R281. -/
theorem State.entered_enters (s : State) (m : Word) (c : Nat) : s.EntersHandler ((s.entered m).addCycles c) m := by
  have e1 : s.sp - 1#16 ≠ s.sp - 2#16 := by bv_omega
  have e2 : s.sp - 1#16 ≠ s.sp - 3#16 := by bv_omega
  have e3 : s.sp - 2#16 ≠ s.sp - 3#16 := by bv_omega
  constructor <;> try rfl
  · intro r hr; simp [State.entered, State.reg_setReg, hr]
  · simp [State.entered, State.frameWords]; cases s.srtCalled <;> simp
  · intro h
    show s.frameMem.word s.mb _ = _ ∧ s.frameMem.word s.mb _ = _ ∧ s.frameMem.word s.mb _ = _
    simp [State.frameMem, h, Memory.word_setWord, e1, e2, e3]
  · intro h
    show s.frameMem.word s.mb _ = _ ∧ s.frameMem.word s.mb _ = _
    simp [State.frameMem, h, Memory.word_setWord, e1]
  · intro k w hw
    by_contra hc
    exact hw (State.frameMem_word (k := k) (w := w) hc)

/-- The counters of cycles and free values are in no frame. -/
theorem State.EntersHandler.counters (h : ((s.addCycles c).drawFree n).EntersHandler t m) : s.EntersHandler t m := by
  obtain ⟨h1, h2, h3, h4, h5, h6, h7, h8, h9, h10, h11, h12, h13, h14, h15, h16, h17, h18, h19, h20⟩ := h
  exact ⟨h1, h2, h3, h4, h5, h6, h7, h8, h9, h10, h11, h12, h13, h14, h15, h16, h17, h18, h19, h20⟩

end Triggered

/-! ## Operands, as the statements name what they leave -/

section Shapes

variable {s : State} {a : AOperand}

theorem State.afterA_eq (s : State) (a : AOperand) : s.afterA a = (s.setPc (s.pcAfterA a)).setSp (s.spAfterA a) := by
  rw [← State.afterA_pc', ← State.afterA_sp]; rfl

theorem State.afterAB_eq (s : State) (b : BOperand) (a : AOperand) :
    s.afterAB b a = (s.setPc (s.pcAfterAB b a)).setSp (s.spAfterAB b a) := by
  rw [← State.afterAB_pc', ← State.afterAB_sp]; rfl

/-- A privileged instruction in kernel mode (60_exceptions.md R286). -/
theorem kernelOnly_kernel (h : s.userMode = false) (n : Nat) (body : Result) : kernelOnly n s body = body := by
  rw [kernelOnly, if_neg]; simp [h]

/-- A privileged instruction in user mode. -/
theorem kernelOnly_user (h : s.userMode = true) (n : Nat) (body : Result) :
    kernelOnly n s body = raiseGpf .ins (s.pc + BitVec.ofNat 16 n) (s.addCycles 1) := by
  rw [kernelOnly, if_pos h, State.consult_cycles_eq, State.checkCycles_user h]

/-- A special instruction that reads a and may. -/
theorem withValue_allowed (h : s.allowsSource a = true) (act : Word → State → Attempt Result) :
    withValue a s act = settle (specialLength a) s (act (s.valueA a) (((s.setPc (s.pcAfterA a)).setSp
      (s.spAfterA a)).addCycles (a.words + s.checkCycles (1 + a.words + (s.locA a).accesses)))) := by
  rw [withValue_eq, if_pos h, State.afterA_eq]

/-- The same in kernel mode. -/
theorem withValue_kernel (h : s.userMode = false) (act : Word → State → Attempt Result) :
    withValue a s act = settle (specialLength a) s (act (s.valueA a) ((s.afterA a).addCycles a.words)) := by
  rw [withValue_eq, if_pos (s.allowsSource_kernel a h), State.checkCycles_kernel h]; rfl

theorem State.store_cycles (s : State) (l : Loc) (v : Word) : (s.store l v).cycles = s.cycles := by cases l <;> rfl

theorem State.setExIf_cycles (s : State) (o : Option Word) : (s.setExIf o).cycles = s.cycles := by cases o <;> rfl

end Shapes

end Sys2Proof.Machine
end

