-- ==== Sys2Proof/Laws/Encoding.lean ====
section
/-! SUPPORT. The encoding field by field: what decoding an operand field or an opcode gives, and back
(spec/30_encoding.md R101 to R104). -/

namespace Sys2Proof

/-! ## From an operand to its field and back -/

/-- Decoding the field of an operand that both fields have gives it back, if `n` is its next word when it has one. -/
theorem decodeCommon_field (o : Operand) (n : Word) (h : o.nextWord = some n ∨ o.nextWord = none) :
    decodeB (BOperand.field (.op o)) n = .op o ∧ decodeA (AOperand.field (.op o)) n = .op o := by
  cases o <;> simp only [Operand.nextWord, Option.some.injEq, reduceCtorEq, or_false, or_true] at h
  case reg r => cases r <;> exact ⟨rfl, rfl⟩
  case ind r => cases r <;> exact ⟨rfl, rfl⟩
  case indOff r m =>
    subst h
    cases r <;> simp only [BOperand.field, AOperand.field, Operand.field, Reg.code] <;> exact ⟨rfl, rfl⟩
  case pick m => subst h; simp only [BOperand.field, AOperand.field, Operand.field]; exact ⟨rfl, rfl⟩
  case abs m => subst h; simp only [BOperand.field, AOperand.field, Operand.field]; exact ⟨rfl, rfl⟩
  case lit m => subst h; simp only [BOperand.field, AOperand.field, Operand.field]; exact ⟨rfl, rfl⟩
  all_goals exact ⟨rfl, rfl⟩

theorem decodeB_field (b : BOperand) (n : Word) (h : b.nextWord = some n ∨ b.nextWord = none) :
    decodeB b.field n = b := by
  rcases b with o | _
  · exact (decodeCommon_field o n h).1
  · rfl

/-- The 32 short literals: the field decodes to them and announces no next word (40_operands.md R146). -/
theorem short_field {v : Word} (h : AOperand.wellFormed (.short v) = true) (n : Word) :
    decodeA (AOperand.field (.short v)) n = .short v ∧ nextWordsOfValue (AOperand.field (.short v)).toNat = 0 := by
  have hv : v = 0xffff ∨ v ≤ 30 := by simpa [AOperand.wellFormed] using h
  have hk : ∀ k : Fin 31, decodeA (AOperand.field (.short (BitVec.ofNat 16 k))) n = .short (BitVec.ofNat 16 k) ∧
      nextWordsOfValue (AOperand.field (.short (BitVec.ofNat 16 k))).toNat = 0 := by
    intro k; fin_cases k <;> exact ⟨rfl, rfl⟩
  rcases hv with rfl | hv
  · exact ⟨rfl, rfl⟩
  · simpa using hk ⟨v.toNat, by bv_omega⟩

theorem decodeA_field (a : AOperand) (n : Word) (hw : a.wellFormed = true)
    (h : a.nextWord = some n ∨ a.nextWord = none) : decodeA a.field n = a := by
  rcases a with o | _ | v
  · exact (decodeCommon_field o n h).2
  · rfl
  · exact (short_field hw n).1

/-- The field announces the next words the operand has (R103). -/
theorem nextWordsOfValue_b (b : BOperand) : nextWordsOfValue b.field.toNat = b.words := by
  rcases b with o | _
  · cases o with
    | reg r => cases r <;> rfl
    | ind r => cases r <;> rfl
    | indOff r m => cases r <;> simp only [BOperand.field, Operand.field, Reg.code] <;> rfl
    | _ => simp only [BOperand.field, Operand.field]; rfl
  · rfl

theorem nextWordsOfValue_a (a : AOperand) (hw : a.wellFormed = true) : nextWordsOfValue a.field.toNat = a.words := by
  rcases a with o | _ | v
  · cases o with
    | reg r => cases r <;> rfl
    | ind r => cases r <;> rfl
    | indOff r m => cases r <;> simp only [AOperand.field, Operand.field, Reg.code] <;> rfl
    | _ => simp only [AOperand.field, Operand.field]; rfl
  · rfl
  · exact (short_field hw 0).2

/-! ## The first word -/

/-- A word built from its three fields has these fields (R101). -/
theorem fields_append (fa : BitVec 6) (fb fo : BitVec 5) :
    fieldA (fa ++ fb ++ fo) = fa ∧ fieldB (fa ++ fb ++ fo) = fb ∧ fieldO (fa ++ fb ++ fo) = fo := by
  refine ⟨?_, ?_, ?_⟩
  · change BitVec.extractLsb' 10 6 (fa ++ fb ++ fo : BitVec (6 + 5 + 5)) = fa
    apply BitVec.eq_of_getLsbD_eq; intro i hi
    simp only [BitVec.getLsbD_extractLsb', BitVec.getLsbD_append, hi, decide_true, Bool.true_and]
    rw [if_neg (by omega), if_neg (by omega)]; congr 1; omega
  · change BitVec.extractLsb' 5 5 (fa ++ fb ++ fo : BitVec (6 + 5 + 5)) = fb
    apply BitVec.eq_of_getLsbD_eq; intro i hi
    simp only [BitVec.getLsbD_extractLsb', BitVec.getLsbD_append, hi, decide_true, Bool.true_and]
    rw [if_neg (by omega), if_pos (by omega)]; congr 1; omega
  · change BitVec.extractLsb' 0 5 (fa ++ fb ++ fo : BitVec (6 + 5 + 5)) = fo
    apply BitVec.eq_of_getLsbD_eq; intro i hi
    simp only [BitVec.getLsbD_extractLsb', BitVec.getLsbD_append, hi, decide_true, Bool.true_and]
    rw [if_pos (by omega)]; congr 1; omega

/-- A word is its three fields. -/
theorem word_fields (w : Word) : fieldA w ++ fieldB w ++ fieldO w = w := by
  apply BitVec.eq_of_getLsbD_eq; intro i hi
  simp only [fieldA, fieldB, fieldO, BitVec.getLsbD_append, BitVec.getLsbD_extractLsb']
  by_cases h1 : i < 5
  · simp [h1]
  · by_cases h2 : i - 5 < 5
    · rw [if_neg h1, if_pos h2]; simp [h2]; congr 1; omega
    · rw [if_neg h1, if_neg h2]; simp [show i - 5 - 5 < 6 by omega]; congr 1; omega

/-- A basic opcode decodes to its instruction. -/
theorem decodeBasic_opcode (i : Instr) (b : BOperand) (h : i.operandB = some b) :
    decodeBasic i.opcode b i.operandA = i ∧ i.opcode ≠ 0 := by
  cases i <;> simp only [Instr.operandB, Option.some.injEq, reduceCtorEq] at h <;> subst h <;>
    exact ⟨rfl, by simp [Instr.opcode]⟩

/-- A special opcode decodes to its instruction. -/
theorem decodeSpecial_opcode (i : Instr) (h : i.operandB = none) : decodeSpecial i.opcode i.operandA = i := by
  cases i <;> simp only [Instr.operandB, reduceCtorEq] at h <;> rfl

/-! ## From any field to what it decodes to and back -/

/-- Whatever an a field decodes to is well-formed, has this field, and has the next word the field announces. -/
theorem decodeA_spec (f : BitVec 6) (n : Word) : (decodeA f n).wellFormed = true ∧ (decodeA f n).field = f ∧
    (decodeA f n).nextWord = if nextWordsOfValue f.toNat = 0 then none else some n := by
  obtain ⟨k⟩ := f
  fin_cases k <;> refine ⟨by rfl, ?_, by rfl⟩ <;>
    first | rfl | simp +decide [decodeA, decodeCommon, Reg.ofCode, AOperand.field, Operand.field, Reg.code]

/-- Whatever a b field decodes to has this field and the next word it announces. -/
theorem decodeB_spec (f : BitVec 5) (n : Word) : (decodeB f n).field = f ∧
    (decodeB f n).nextWord = if nextWordsOfValue f.toNat = 0 then none else some n := by
  obtain ⟨k⟩ := f
  fin_cases k <;> exact ⟨by rfl, by rfl⟩

/-- Whatever a basic opcode decodes to has this opcode and these operands. -/
theorem decodeBasic_spec (o : BitVec 5) (b : BOperand) (a : AOperand) (h : o ≠ 0) :
    (decodeBasic o b a).opcode = o ∧ (decodeBasic o b a).operandA = a ∧ (decodeBasic o b a).operandB = some b := by
  obtain ⟨k⟩ := o
  fin_cases k
  · exact absurd rfl h
  all_goals exact ⟨by rfl, by rfl, by rfl⟩

/-- Whatever a special opcode decodes to has this opcode and this operand. -/
theorem decodeSpecial_spec (o : BitVec 5) (a : AOperand) :
    (decodeSpecial o a).opcode = o ∧ (decodeSpecial o a).operandA = a ∧ (decodeSpecial o a).operandB = none := by
  obtain ⟨k⟩ := o
  fin_cases k
  all_goals exact ⟨by rfl, by rfl, by rfl⟩

end Sys2Proof
end

