-- ==== Sys2Proof/Laws/PerInstr.lean ====
section
/-! SUPPORT. Statements made of every instruction, one lemma for each constructor. -/

namespace Sys2Proof.Laws

/-- An instruction is encoded in as many words as it has: its first word and the next words of its operands
(30_encoding.md R103). -/
def EncodedLength.Statement (i : Instr) : Prop := (encode i).length = i.length

/-- It holds whatever the operands are. -/
theorem EncodedLength.of_operands (i : Instr) : EncodedLength.Statement i := by
  unfold EncodedLength.Statement encode Instr.nextWords Instr.length AOperand.words
  cases i.operandB <;> simp [BOperand.words] <;> omega

theorem EncodedLength.set (b : BOperand) (a : AOperand) : Statement (.set b a) := of_operands _
theorem EncodedLength.add (b : BOperand) (a : AOperand) : Statement (.add b a) := of_operands _
theorem EncodedLength.sub (b : BOperand) (a : AOperand) : Statement (.sub b a) := of_operands _
theorem EncodedLength.mul (b : BOperand) (a : AOperand) : Statement (.mul b a) := of_operands _
theorem EncodedLength.mli (b : BOperand) (a : AOperand) : Statement (.mli b a) := of_operands _
theorem EncodedLength.div (b : BOperand) (a : AOperand) : Statement (.div b a) := of_operands _
theorem EncodedLength.dvi (b : BOperand) (a : AOperand) : Statement (.dvi b a) := of_operands _
theorem EncodedLength.mod (b : BOperand) (a : AOperand) : Statement (.mod b a) := of_operands _
theorem EncodedLength.mdi (b : BOperand) (a : AOperand) : Statement (.mdi b a) := of_operands _
theorem EncodedLength.and (b : BOperand) (a : AOperand) : Statement (.and b a) := of_operands _
theorem EncodedLength.bor (b : BOperand) (a : AOperand) : Statement (.bor b a) := of_operands _
theorem EncodedLength.xor (b : BOperand) (a : AOperand) : Statement (.xor b a) := of_operands _
theorem EncodedLength.shr (b : BOperand) (a : AOperand) : Statement (.shr b a) := of_operands _
theorem EncodedLength.asr (b : BOperand) (a : AOperand) : Statement (.asr b a) := of_operands _
theorem EncodedLength.shl (b : BOperand) (a : AOperand) : Statement (.shl b a) := of_operands _
theorem EncodedLength.ifb (b : BOperand) (a : AOperand) : Statement (.ifb b a) := of_operands _
theorem EncodedLength.ifc (b : BOperand) (a : AOperand) : Statement (.ifc b a) := of_operands _
theorem EncodedLength.ife (b : BOperand) (a : AOperand) : Statement (.ife b a) := of_operands _
theorem EncodedLength.ifn (b : BOperand) (a : AOperand) : Statement (.ifn b a) := of_operands _
theorem EncodedLength.ifg (b : BOperand) (a : AOperand) : Statement (.ifg b a) := of_operands _
theorem EncodedLength.ifa (b : BOperand) (a : AOperand) : Statement (.ifa b a) := of_operands _
theorem EncodedLength.ifl (b : BOperand) (a : AOperand) : Statement (.ifl b a) := of_operands _
theorem EncodedLength.ifu (b : BOperand) (a : AOperand) : Statement (.ifu b a) := of_operands _
theorem EncodedLength.adx (b : BOperand) (a : AOperand) : Statement (.adx b a) := of_operands _
theorem EncodedLength.sbx (b : BOperand) (a : AOperand) : Statement (.sbx b a) := of_operands _
theorem EncodedLength.sti (b : BOperand) (a : AOperand) : Statement (.sti b a) := of_operands _
theorem EncodedLength.std (b : BOperand) (a : AOperand) : Statement (.std b a) := of_operands _
theorem EncodedLength.jsr (a : AOperand) : Statement (.jsr a) := of_operands _
theorem EncodedLength.mbg (a : AOperand) : Statement (.mbg a) := of_operands _
theorem EncodedLength.mbo (a : AOperand) : Statement (.mbo a) := of_operands _
theorem EncodedLength.int (a : AOperand) : Statement (.int a) := of_operands _
theorem EncodedLength.iag (a : AOperand) : Statement (.iag a) := of_operands _
theorem EncodedLength.ias (a : AOperand) : Statement (.ias a) := of_operands _
theorem EncodedLength.rfi (a : AOperand) : Statement (.rfi a) := of_operands _
theorem EncodedLength.iaq (a : AOperand) : Statement (.iaq a) := of_operands _
theorem EncodedLength.hwn (a : AOperand) : Statement (.hwn a) := of_operands _
theorem EncodedLength.hwq (a : AOperand) : Statement (.hwq a) := of_operands _
theorem EncodedLength.hwi (a : AOperand) : Statement (.hwi a) := of_operands _
theorem EncodedLength.grm (a : AOperand) : Statement (.grm a) := of_operands _
theorem EncodedLength.drm (a : AOperand) : Statement (.drm a) := of_operands _
theorem EncodedLength.srt (a : AOperand) : Statement (.srt a) := of_operands _
theorem EncodedLength.basic18 (b : BOperand) (a : AOperand) : Statement (.basic18 b a) := of_operands _
theorem EncodedLength.basic19 (b : BOperand) (a : AOperand) : Statement (.basic19 b a) := of_operands _
theorem EncodedLength.basic1c (b : BOperand) (a : AOperand) : Statement (.basic1c b a) := of_operands _
theorem EncodedLength.basic1d (b : BOperand) (a : AOperand) : Statement (.basic1d b a) := of_operands _
theorem EncodedLength.special00 (a : AOperand) : Statement (.special00 a) := of_operands _
theorem EncodedLength.special02 (a : AOperand) : Statement (.special02 a) := of_operands _
theorem EncodedLength.special03 (a : AOperand) : Statement (.special03 a) := of_operands _
theorem EncodedLength.special04 (a : AOperand) : Statement (.special04 a) := of_operands _
theorem EncodedLength.special07 (a : AOperand) : Statement (.special07 a) := of_operands _
theorem EncodedLength.special0d (a : AOperand) : Statement (.special0d a) := of_operands _
theorem EncodedLength.special0e (a : AOperand) : Statement (.special0e a) := of_operands _
theorem EncodedLength.special0f (a : AOperand) : Statement (.special0f a) := of_operands _
theorem EncodedLength.special13 (a : AOperand) : Statement (.special13 a) := of_operands _
theorem EncodedLength.special14 (a : AOperand) : Statement (.special14 a) := of_operands _
theorem EncodedLength.special15 (a : AOperand) : Statement (.special15 a) := of_operands _
theorem EncodedLength.special19 (a : AOperand) : Statement (.special19 a) := of_operands _
theorem EncodedLength.special1a (a : AOperand) : Statement (.special1a a) := of_operands _
theorem EncodedLength.special1b (a : AOperand) : Statement (.special1b a) := of_operands _
theorem EncodedLength.special1c (a : AOperand) : Statement (.special1c a) := of_operands _
theorem EncodedLength.special1d (a : AOperand) : Statement (.special1d a) := of_operands _
theorem EncodedLength.special1e (a : AOperand) : Statement (.special1e a) := of_operands _
theorem EncodedLength.special1f (a : AOperand) : Statement (.special1f a) := of_operands _

end Sys2Proof.Laws
end

