-- ==== Sys2Proof/Tests/Slice0.lean ====
section
/-! SUPPORT. Small tests: ill-formed terms are refused, words written out from the spec's encoding decode to their
instructions, one step on a small state gives what spec/95_test_vectors.md says (the vector is named), and for every
statement with hypotheses a concrete state that meets them. -/

namespace Sys2Proof.Tests

open Sys2Proof Sys2Proof.Machine

/-! ## Well-formedness: the only check is the range of a short literal (40_operands.md R146) -/

theorem test_short_31_refused : AOperand.wellFormed (.short 31) = false := by decide
theorem test_short_fffe_refused : AOperand.wellFormed (.short 0xfffe) = false := by decide
theorem test_instruction_with_short_31_refused :
    Instr.wellFormed (.set (.op (.reg .a)) (.short 31)) = false ∧ Instr.wellFormed (.jsr (.short 0x8000)) = false := by
  decide
theorem test_short_bounds_accepted :
    AOperand.wellFormed (.short 0xffff) = true ∧ AOperand.wellFormed (.short 30) = true := by decide

/-! ## Decoding: words written out from 30_encoding.md R101, R102 (fields a, b and o) -/

/-- SET C, B to MDI C, B: a = 1 (B), b = 2 (C), o = 0x01 to 0x09. -/
theorem test_decode_move_arith :
    decode [0b000001_00010_00001] = .ok (.set (.op (.reg .c)) (.op (.reg .b)), []) ∧
    decode [0b000001_00010_00010] = .ok (.add (.op (.reg .c)) (.op (.reg .b)), []) ∧
    decode [0b000001_00010_00011] = .ok (.sub (.op (.reg .c)) (.op (.reg .b)), []) ∧
    decode [0b000001_00010_00100] = .ok (.mul (.op (.reg .c)) (.op (.reg .b)), []) ∧
    decode [0b000001_00010_00101] = .ok (.mli (.op (.reg .c)) (.op (.reg .b)), []) ∧
    decode [0b000001_00010_00110] = .ok (.div (.op (.reg .c)) (.op (.reg .b)), []) ∧
    decode [0b000001_00010_00111] = .ok (.dvi (.op (.reg .c)) (.op (.reg .b)), []) ∧
    decode [0b000001_00010_01000] = .ok (.mod (.op (.reg .c)) (.op (.reg .b)), []) ∧
    decode [0b000001_00010_01001] = .ok (.mdi (.op (.reg .c)) (.op (.reg .b)), []) := by
  decide

/-- AND C, B to SHL C, B: o = 0x0a to 0x0f. -/
theorem test_decode_logic_shift :
    decode [0b000001_00010_01010] = .ok (.and (.op (.reg .c)) (.op (.reg .b)), []) ∧
    decode [0b000001_00010_01011] = .ok (.bor (.op (.reg .c)) (.op (.reg .b)), []) ∧
    decode [0b000001_00010_01100] = .ok (.xor (.op (.reg .c)) (.op (.reg .b)), []) ∧
    decode [0b000001_00010_01101] = .ok (.shr (.op (.reg .c)) (.op (.reg .b)), []) ∧
    decode [0b000001_00010_01110] = .ok (.asr (.op (.reg .c)) (.op (.reg .b)), []) ∧
    decode [0b000001_00010_01111] = .ok (.shl (.op (.reg .c)) (.op (.reg .b)), []) := by
  decide

/-- IFB C, B to IFU C, B: o = 0x10 to 0x17. -/
theorem test_decode_conditionals :
    decode [0b000001_00010_10000] = .ok (.ifb (.op (.reg .c)) (.op (.reg .b)), []) ∧
    decode [0b000001_00010_10001] = .ok (.ifc (.op (.reg .c)) (.op (.reg .b)), []) ∧
    decode [0b000001_00010_10010] = .ok (.ife (.op (.reg .c)) (.op (.reg .b)), []) ∧
    decode [0b000001_00010_10011] = .ok (.ifn (.op (.reg .c)) (.op (.reg .b)), []) ∧
    decode [0b000001_00010_10100] = .ok (.ifg (.op (.reg .c)) (.op (.reg .b)), []) ∧
    decode [0b000001_00010_10101] = .ok (.ifa (.op (.reg .c)) (.op (.reg .b)), []) ∧
    decode [0b000001_00010_10110] = .ok (.ifl (.op (.reg .c)) (.op (.reg .b)), []) ∧
    decode [0b000001_00010_10111] = .ok (.ifu (.op (.reg .c)) (.op (.reg .b)), []) := by
  decide

/-- ADX, SBX, STI, STD: o = 0x1a, 0x1b, 0x1e, 0x1f. -/
theorem test_decode_carry_loop :
    decode [0b000001_00010_11010] = .ok (.adx (.op (.reg .c)) (.op (.reg .b)), []) ∧
    decode [0b000001_00010_11011] = .ok (.sbx (.op (.reg .c)) (.op (.reg .b)), []) ∧
    decode [0b000001_00010_11110] = .ok (.sti (.op (.reg .c)) (.op (.reg .b)), []) ∧
    decode [0b000001_00010_11111] = .ok (.std (.op (.reg .c)) (.op (.reg .b)), []) := by
  decide

/-- JSR X to IAQ X: a = 3 (X), o' in bits 9 to 5, o = 0. -/
theorem test_decode_jsr_banks_interrupts :
    decode [0b000011_00001_00000] = .ok (.jsr (.op (.reg .x)), []) ∧
    decode [0b000011_00101_00000] = .ok (.mbg (.op (.reg .x)), []) ∧
    decode [0b000011_00110_00000] = .ok (.mbo (.op (.reg .x)), []) ∧
    decode [0b000011_01000_00000] = .ok (.int (.op (.reg .x)), []) ∧
    decode [0b000011_01001_00000] = .ok (.iag (.op (.reg .x)), []) ∧
    decode [0b000011_01010_00000] = .ok (.ias (.op (.reg .x)), []) ∧
    decode [0b000011_01011_00000] = .ok (.rfi (.op (.reg .x)), []) ∧
    decode [0b000011_01100_00000] = .ok (.iaq (.op (.reg .x)), []) := by
  decide

/-- HWN X to SRT X. -/
theorem test_decode_hardware_ring :
    decode [0b000011_10000_00000] = .ok (.hwn (.op (.reg .x)), []) ∧
    decode [0b000011_10001_00000] = .ok (.hwq (.op (.reg .x)), []) ∧
    decode [0b000011_10010_00000] = .ok (.hwi (.op (.reg .x)), []) ∧
    decode [0b000011_10110_00000] = .ok (.grm (.op (.reg .x)), []) ∧
    decode [0b000011_10111_00000] = .ok (.drm (.op (.reg .x)), []) ∧
    decode [0b000011_11000_00000] = .ok (.srt (.op (.reg .x)), []) := by
  decide

/-- The unassigned basic opcodes (R108). -/
theorem test_decode_unassigned_basic :
    decode [0b000001_00010_11000] = .ok (.basic18 (.op (.reg .c)) (.op (.reg .b)), []) ∧
    decode [0b000001_00010_11001] = .ok (.basic19 (.op (.reg .c)) (.op (.reg .b)), []) ∧
    decode [0b000001_00010_11100] = .ok (.basic1c (.op (.reg .c)) (.op (.reg .b)), []) ∧
    decode [0b000001_00010_11101] = .ok (.basic1d (.op (.reg .c)) (.op (.reg .b)), []) := by
  decide

/-- The reserved and the unassigned special opcodes up to 0x0f (R109). -/
theorem test_decode_unassigned_special_low :
    decode [0b000011_00000_00000] = .ok (.special00 (.op (.reg .x)), []) ∧
    decode [0b000011_00010_00000] = .ok (.special02 (.op (.reg .x)), []) ∧
    decode [0b000011_00011_00000] = .ok (.special03 (.op (.reg .x)), []) ∧
    decode [0b000011_00100_00000] = .ok (.special04 (.op (.reg .x)), []) ∧
    decode [0b000011_00111_00000] = .ok (.special07 (.op (.reg .x)), []) ∧
    decode [0b000011_01101_00000] = .ok (.special0d (.op (.reg .x)), []) ∧
    decode [0b000011_01110_00000] = .ok (.special0e (.op (.reg .x)), []) ∧
    decode [0b000011_01111_00000] = .ok (.special0f (.op (.reg .x)), []) := by
  decide

/-- The unassigned special opcodes 0x13 to 0x1b. -/
theorem test_decode_unassigned_special_mid :
    decode [0b000011_10011_00000] = .ok (.special13 (.op (.reg .x)), []) ∧
    decode [0b000011_10100_00000] = .ok (.special14 (.op (.reg .x)), []) ∧
    decode [0b000011_10101_00000] = .ok (.special15 (.op (.reg .x)), []) ∧
    decode [0b000011_11001_00000] = .ok (.special19 (.op (.reg .x)), []) ∧
    decode [0b000011_11010_00000] = .ok (.special1a (.op (.reg .x)), []) ∧
    decode [0b000011_11011_00000] = .ok (.special1b (.op (.reg .x)), []) := by
  decide

/-- The unassigned special opcodes 0x1c to 0x1f. -/
theorem test_decode_unassigned_special_high :
    decode [0b000011_11100_00000] = .ok (.special1c (.op (.reg .x)), []) ∧
    decode [0b000011_11101_00000] = .ok (.special1d (.op (.reg .x)), []) ∧
    decode [0b000011_11110_00000] = .ok (.special1e (.op (.reg .x)), []) ∧
    decode [0b000011_11111_00000] = .ok (.special1f (.op (.reg .x)), []) := by
  decide

/-- Operand values with next words: a's next word comes first (R104); a sum of fields 0x1a, 0x1e, 0x1f, 0x10 to 0x17. -/
theorem test_decode_next_words :
    decode [0b010011_10001_00001, 5, 2, 9] = .ok (.set (.op (.indOff .b 2)) (.op (.indOff .x 5)), [9]) ∧
    decode [0b011111_11110_00010, 0x20, 0x1000] = .ok (.add (.op (.abs 0x1000)) (.op (.lit 0x20)), []) ∧
    decode [0b011010_11000_00001, 3] = .ok (.set .push (.op (.pick 3)), []) ∧
    decode [0b011000_11111_00001, 7] = .ok (.set (.op (.lit 7)) .pop, []) ∧
    decode [0b011110_01011_00000, 0xffff] = .ok (.rfi (.op (.abs 0xffff)), []) := by
  decide

/-- Operand values without next words: [register], PEEK, SP, PC, EX and the literals -1, 0 and 30. -/
theorem test_decode_other_operands :
    decode [0b001111_01110_00001] = .ok (.set (.op (.ind .i)) (.op (.ind .j)), []) ∧
    decode [0b011001_11011_00001] = .ok (.set (.op .sp) (.op .peek), []) ∧
    decode [0b011101_11100_00001] = .ok (.set (.op .pc) (.op .ex), []) ∧
    decode [0b100000_00000_00001] = .ok (.set (.op (.reg .a)) (.short 0xffff), []) ∧
    decode [0b100001_00111_00001] = .ok (.set (.op (.reg .j)) (.short 0), []) ∧
    decode [0b111111_00110_00001] = .ok (.set (.op (.reg .i)) (.short 30), []) := by
  decide

/-- Too few words are refused by name. -/
theorem test_decode_truncated :
    decode [] = .error .noFirstWord ∧ decode [0x7c01] = .error .missingNextWord ∧
    decode [0x7fc1, 0x0020] = .error .missingNextWord := by
  decide

/-- The numbering of the opcode table: the first word in the low bits, the others zero. -/
theorem test_table_word : decodeTableWord 16 0x7c01 = some (.set (.op (.reg .a)) (.op (.lit 0))) := by decide

/-- `withFetchWord` puts the instruction where the next step fetches it. -/
theorem test_withFetchWord :
    (State.reset.withFetchWord 16 0x7c01).fetchWords = [0x7c01, 0, 0] := by
  decide

/-! ## One step each -/

/-- Reset with words at `addr`, pc there too. -/
def prog (addr : Word) (ws : List Word) : State := (State.reset.putWords addr ws).setPc addr

/-- The step is taken and its result satisfies `p`. -/
def after (s : State) (p : State → Bool) : Bool :=
  match step s with
  | .next u => p u
  | .fault _ => false
  | .refused _ => false

/-- The step ends in the fault `f`. -/
def faults (s : State) (f : Fault) : Bool :=
  match step s with
  | .next _ => false
  | .fault g => decide (g = f)
  | .refused _ => false

/-- Whether a meaning answers a next state. -/
def completes : Result → Bool
  | .next _ => true
  | .fault _ => false
  | .refused _ => false

/-- Reset with A and B and one word at address 0. -/
def ab (w a b : Word) : State := ((prog 0 [w]).setReg .a a).setReg .b b

/-- The common start of part 3 of 95_test_vectors.md: user mode, page 1 of bank 0 --e, page 2 rw-, IA 0x40. -/
def user (addr : Word) (ws : List Word) : State :=
  { (prog addr ws) with
    rm := 1
    perm := [(1, 0b001), (2, 0b110)]
    srtCalled := true
    gdtMsg := 0x4000
    ia := 0x0040
    sp := 0x0300 }

/-- Long-form entry with message m from pc p and A = a: entry(m, p) of part 3. -/
def entered (u : State) (m p a : Word) : Bool :=
  u.bank 0 0x02ff == 1 && u.bank 0 0x02fe == p && u.bank 0 0x02fd == a && u.sp == 0x02fd && u.pc == 0x0040 &&
    u.reg .a == m && u.rm == 0 && u.iq

/-! ### Move and arithmetic (95_test_vectors.md 2.1) -/

theorem test_set : after ((ab 0x0401 1 0xbeef).setEx 0x5555) (fun u => u.reg .a == 0xbeef && u.ex == 0x5555 && u.pc == 1) = true := by decide
theorem test_add_carry : after ((ab 0x0402 0xffff 0xffff).setEx 0x5555) (fun u => u.reg .a == 0xfffe && u.ex == 1 && u.pc == 1) = true := by decide
theorem test_add_clears_ex : after ((ab 0x0402 0x1234 0x1111).setEx 0x5555) (fun u => u.reg .a == 0x2345 && u.ex == 0 && u.pc == 1) = true := by decide
theorem test_sub : after ((ab 0x0403 5 3).setEx 0x5555) (fun u => u.reg .a == 2 && u.ex == 0 && u.pc == 1) = true := by decide
theorem test_sub_borrow : after ((ab 0x0403 3 5).setEx 0x5555) (fun u => u.reg .a == 0xfffe && u.ex == 0xffff && u.pc == 1) = true := by decide
theorem test_mul : after ((ab 0x0404 0xffff 0xffff).setEx 0x5555) (fun u => u.reg .a == 1 && u.ex == 0xfffe && u.pc == 1) = true := by decide
theorem test_mli_negative : after ((ab 0x0405 0xfffe 3).setEx 0x5555) (fun u => u.reg .a == 0xfffa && u.ex == 0xffff && u.pc == 1) = true := by decide
theorem test_mli_high : after ((ab 0x0405 0x8000 0x7fff).setEx 0x5555) (fun u => u.reg .a == 0x8000 && u.ex == 0xc000 && u.pc == 1) = true := by decide
theorem test_div : after ((ab 0x0406 0x64 7).setEx 0x5555) (fun u => u.reg .a == 0x0e && u.ex == 0x4924 && u.pc == 1) = true := by decide
theorem test_div_by_zero : after ((ab 0x0406 0x1234 0).setEx 0x5555) (fun u => u.reg .a == 0 && u.ex == 0 && u.pc == 1) = true := by decide
theorem test_dvi_negative : after ((ab 0x0407 0xffff 3).setEx 0x5555) (fun u => u.reg .a == 0 && u.ex == 0xaaab && u.pc == 1) = true := by decide
theorem test_dvi_overflow : after ((ab 0x0407 0x8000 0xffff).setEx 0x5555) (fun u => u.reg .a == 0x8000 && u.ex == 0 && u.pc == 1) = true := by decide
theorem test_mod : after ((ab 0x0408 0xfff9 0x10).setEx 0x5555) (fun u => u.reg .a == 9 && u.ex == 0x5555 && u.pc == 1) = true := by decide
theorem test_mod_by_zero : after ((ab 0x0408 5 0).setEx 0x5555) (fun u => u.reg .a == 0 && u.ex == 0x5555 && u.pc == 1) = true := by decide
theorem test_mdi : after ((ab 0x0409 0xfff9 0x10).setEx 0x5555) (fun u => u.reg .a == 0xfff9 && u.ex == 0x5555 && u.pc == 1) = true := by decide
theorem test_mdi_negatives : after ((ab 0x0409 0xfff9 0xfffd).setEx 0x5555) (fun u => u.reg .a == 0xffff && u.ex == 0x5555 && u.pc == 1) = true := by decide

/-! ### Logic and shifts (2.2) -/

theorem test_and : after ((ab 0x040a 0xf0f0 0x3c3c).setEx 0x5555) (fun u => u.reg .a == 0x3030 && u.ex == 0x5555 && u.pc == 1) = true := by decide
theorem test_bor : after ((ab 0x040b 0xf0f0 0x3c3c).setEx 0x5555) (fun u => u.reg .a == 0xfcfc && u.ex == 0x5555 && u.pc == 1) = true := by decide
theorem test_xor : after ((ab 0x040c 0xf0f0 0x3c3c).setEx 0x5555) (fun u => u.reg .a == 0xcccc && u.ex == 0x5555 && u.pc == 1) = true := by decide
theorem test_shr : after ((ab 0x040d 0x8001 1).setEx 0x5555) (fun u => u.reg .a == 0x4000 && u.ex == 0x8000 && u.pc == 1) = true := by decide
theorem test_shr_17 : after ((ab 0x040d 0xffff 0x11).setEx 0x5555) (fun u => u.reg .a == 0 && u.ex == 0x7fff && u.pc == 1) = true := by decide
theorem test_asr : after ((ab 0x040e 0xf234 8).setEx 0x5555) (fun u => u.reg .a == 0xfff2 && u.ex == 0x3400 && u.pc == 1) = true := by decide
theorem test_asr_17 : after ((ab 0x040e 0x8000 0x11).setEx 0x5555) (fun u => u.reg .a == 0xffff && u.ex == 0xc000 && u.pc == 1) = true := by decide
theorem test_shl : after ((ab 0x040f 0x1234 8).setEx 0x5555) (fun u => u.reg .a == 0x3400 && u.ex == 0x12 && u.pc == 1) = true := by decide
theorem test_shl_31 : after ((ab 0x040f 0xffff 0x1f).setEx 0x5555) (fun u => u.reg .a == 0 && u.ex == 0x8000 && u.pc == 1) = true := by decide

/-! ### Conditionals (2.3): performed leaves pc 1, skipped passes the two-word instruction at 1 -/

/-- pc after `IFx A, B` with `SET A, 1` in long form after it. -/
def ifPc (w a b pc : Word) : Bool :=
  after (((prog 0 [w, 0x7c01, 0x0001, 0x8401]).setReg .a a).setReg .b b) (fun u => u.pc == pc && u.reg .a == a)

theorem test_ifb : (ifPc 0x0410 0xffff 1 1 && ifPc 0x0410 0xf0 0x0f 3) = true := by decide
theorem test_ifc : (ifPc 0x0411 0xf0 0x0f 1 && ifPc 0x0411 5 5 3) = true := by decide
theorem test_ife : (ifPc 0x0412 5 5 1 && ifPc 0x0412 0xffff 1 3) = true := by decide
theorem test_ifn : (ifPc 0x0413 0xffff 1 1 && ifPc 0x0413 5 5 3) = true := by decide
theorem test_ifg : (ifPc 0x0414 0xffff 1 1 && ifPc 0x0414 1 0xffff 3) = true := by decide
theorem test_ifa : (ifPc 0x0415 1 0xffff 1 && ifPc 0x0415 0xffff 1 3) = true := by decide
theorem test_ifl : (ifPc 0x0416 1 0xffff 1 && ifPc 0x0416 0xffff 1 3) = true := by decide
theorem test_ifu : (ifPc 0x0417 0xffff 1 1 && ifPc 0x0417 1 0xffff 3) = true := by decide
theorem test_chain : after (prog 0 [0x8812, 0x8832, 0x8852, 0x8861, 0x8881])
    (fun u => u.pc == 4 && u.reg .x == 0 && u.cycles == 5) = true := by decide
theorem test_skip_unassigned : after (prog 0 [0x8812, 0x7c18, 0x1234, 0x8821]) (fun u => u.pc == 3) = true := by decide

/-! ### Carry arithmetic and stepping moves (2.4) -/

theorem test_adx_carry : after ((ab 0x041a 0xffff 0xffff).setEx 0xffff) (fun u => u.reg .a == 0xfffd && u.ex == 1) = true := by decide
theorem test_adx : after ((ab 0x041a 0xfffe 0).setEx 1) (fun u => u.reg .a == 0xffff && u.ex == 0) = true := by decide
theorem test_sbx_borrow : after ((ab 0x041b 3 5).setEx 0) (fun u => u.reg .a == 0xfffe && u.ex == 0xffff) = true := by decide
theorem test_sbx_over : after ((ab 0x041b 5 3).setEx 0xffff) (fun u => u.reg .a == 1 && u.ex == 1) = true := by decide
theorem test_sti : after ((((prog 0 [0x3dde]).setReg .i 0x0100).setReg .j 0x0200).setBank 0 0x0200 0xbeef)
    (fun u => u.bank 0 0x0100 == 0xbeef && u.reg .i == 0x0101 && u.reg .j == 0x0201) = true := by decide
theorem test_sti_to_i : after (((prog 0 [0x98de]).setReg .i 0x0100).setReg .j 0xffff)
    (fun u => u.reg .i == 6 && u.reg .j == 0) = true := by decide
theorem test_std : after (((ab 0x041f 0 7).setReg .i 0).setReg .j 5)
    (fun u => u.reg .a == 7 && u.reg .i == 0xffff && u.reg .j == 4) = true := by decide

/-! ### Operands (2.5) -/

theorem test_push_pop : after (((prog 0 [0x6301]).setSp 0x8000).setBank 0 0x8000 0x1234)
    (fun u => u.sp == 0x8000 && u.bank 0 0x8000 == 0x1234) = true := by decide
theorem test_add_push : after (((prog 0 [0x8b02]).setSp 0x8000).setBank 0 0x7fff 0x0010)
    (fun u => u.sp == 0x7fff && u.bank 0 0x7fff == 0x0011) = true := by decide
theorem test_pc_read_before_next_word : after (prog 0x10 [0x73c1, 0x2000])
    (fun u => u.bank 0 0x2000 == 0x11 && u.pc == 0x12) = true := by decide
theorem test_add_to_ex : after ((prog 0 [0x8ba2]).setEx 0xffff) (fun u => u.ex == 1) = true := by decide
theorem test_offset_wraps : after (((prog 0 [0x4401, 0xffff]).setReg .b 0x11).setBank 0 0x10 0x7777)
    (fun u => u.reg .a == 0x7777 && u.pc == 2) = true := by decide
theorem test_literal_write_fails_silently : after (prog 0 [0x7fe1, 5, 6])
    (fun u => u.pc == 3 && u.bank 0 2 == 6 && u.regs == State.reset.regs) = true := by decide

/-! ### Special instructions in kernel mode (2.6) -/

theorem test_jsr : after (prog 0x20 [0x7c20, 0x0100])
    (fun u => u.pc == 0x0100 && u.sp == 0xffff && u.bank 0 0xffff == 0x22) = true := by decide
theorem test_jsr_pop : after (((prog 0x20 [0x6020]).setSp 0x1000).setBank 0 0x1000 0x0400)
    (fun u => u.pc == 0x0400 && u.sp == 0x1000 && u.bank 0 0x1000 == 0x21) = true := by decide
theorem test_mbg : after ((State.reset.setMb 3).putWords 0 [0x00a0]) (fun u => u.reg .a == 3) = true := by decide
theorem test_mbo_select : after (prog 0 [0x88c0]) (fun u => u.mb == 1 && u.pc == 1 && u.cycles == 9) = true := by decide
/-- `MBO 0x24e8` copies 0x2400 to 0x25ff of bank 3 to bank 5; here one word of the block at a time. -/
theorem test_mbo_fields : (mboBase 0x24e8, mboSource 0x24e8, mboDest 0x24e8, mboSelect 0x24e8) =
    ((0x2400, 3, 5, 0) : Word × BankNo × BankNo × BankNo) ∧
    ((State.reset.setBank 3 0x2400 0x1111).mem.copy 3 5 2 0x2400).word 5 0x2400 = 0x1111 := by decide
theorem test_int_short : after (((prog 0x20 [0x9900]).setReg .a 0x1111).setIa 0x40)
    (fun u => u.bank 0 0xffff == 0x21 && u.bank 0 0xfffe == 0x1111 && u.sp == 0xfffe && u.pc == 0x40 && u.reg .a == 5 &&
      u.iq) = true := by decide
theorem test_int_queued : after (((prog 0x20 [0x9900]).setIa 0x40).setIq true)
    (fun u => u.pc == 0x21 && u.queue == [5]) = true := by decide
theorem test_iag : after ((prog 0 [0x0120]).setIa 0x40) (fun u => u.reg .a == 0x40) = true := by decide
theorem test_ias : after (prog 0 [0x7d40, 0x0040]) (fun u => u.ia == 0x40 && u.pc == 2) = true := by decide
theorem test_rfi_short : after ((((prog 0 [0x8560]).setSp 0xfffe).setBank 0 0xfffe 0x1111).setBank 0 0xffff 0x21
    |>.setIq true) (fun u => u.reg .a == 0x1111 && u.pc == 0x21 && u.sp == 0 && !u.iq) = true := by decide
theorem test_rfi_long : after { (((((prog 0 [0x8560]).setSp 0xfffd).setBank 0 0xfffd 0x1111).setBank 0 0xfffe 0x21).setBank
    0 0xffff 1) with srtCalled := true } (fun u => u.reg .a == 0x1111 && u.pc == 0x21 && u.rm == 1 && u.sp == 0) = true := by
  decide
theorem test_iaq_on : after (prog 0 [0x8980]) (fun u => u.iq) = true := by decide
theorem test_iaq_off : after ((prog 0 [0x8580]).setIq true) (fun u => !u.iq) = true := by decide

/-- The device of 95_test_vectors.md. -/
def disk : Device where
  info := { id := 0x12345678, version := 2, manufacturer := 0x9abcdef0, otherBanks := false }
  hwiSeen := false

theorem test_hwn : after (((prog 0 [0x0200]).setReg .a 5).setDevices [disk]) (fun u => u.reg .a == 1) = true := by decide
theorem test_hwq : after ((prog 0 [0x8620]).setDevices [disk]) (fun u => u.reg .a == 0x5678 && u.reg .b == 0x1234 &&
    u.reg .c == 2 && u.reg .x == 0xdef0 && u.reg .y == 0x9abc) = true := by decide
theorem test_hwi : after (((prog 0 [0x8640]).setDevices [disk]).setHwiAnswers
    [{ extraCycles := 2, writes := [.reg .c 1, .mem 0 9 7] }])
    (fun u => u.reg .c == 1 && u.bank 0 9 == 7 && u.devices.all (fun d => d.hwiSeen) && u.cycles == 6) = true := by decide
theorem test_hwi_absent : faults (prog 0 [0x8640]) .noSuchDevice = true := by decide
theorem test_grm : after ((prog 0 [0x02c0]).setReg .a 5) (fun u => u.reg .a == 0) = true := by decide
theorem test_drm : after ((prog 0 [0x02e0]).setReg .a 5) (fun u => u.reg .a == 0 && u.rm == 1) = true := by decide
/-- The worked example of 49_ring_instr.md R260 and S5, for the pages 0 and 0x10 to 0x2f of banks 2 and 3. -/
def srtMemory : Memory :=
  ((((((State.reset.putWords 0x0100 [0x8000, 0, 0x0050, 2, 0x0009, 0x10fe]).setBank 2 0x50 0x60).setBank 2 0x60 1).setBank
    2 0x61 0x000c).setBank 3 0x50 0x51).setBank 3 0x51 0).mem

theorem test_srt_entries : gdtEntries srtMemory 0x0100 = [0x0009, 0x10fe] ∧ ldtEntries srtMemory 0x50 2 = [0x000c] ∧
    ldtEntries srtMemory 0x50 3 = [] ∧ ldtEntries srtMemory 0xffff 2 = [] := by decide
theorem test_srt_or : (grantEntry 2 (grantEntry 2 [] 0x0009) 0x000c).flags 2 0 = 0b101 ∧
    (grantEntry 2 [] 0x0009).flags 3 0 = 0 ∧ (grantEntry 0 [] 0xfe1f).flags 0 0xff = 0b111 := by decide

/-! ### User mode, GPFs and model faults (part 3) -/

theorem test_g1_first_word : after (user 0x0200 [0x8801]) (fun u => entered u 0x4002 0x0201 0) = true := by decide
theorem test_g2_data_read : after (user 0x0100 [0x7801, 0x0100]) (fun u => entered u 0x4002 0x0102 0) = true := by decide
theorem test_g3_next_word : after (user 0x01ff [0x7c01, 0x1234]) (fun u => entered u 0x4002 0x0201 0) = true := by decide
theorem test_g4_allowed : after (user 0x0100 [0x7fc1, 0x1234, 0x0210])
    (fun u => u.bank 0 0x0210 == 0x1234 && u.pc == 0x0103 && u.rm == 1) = true := by decide
theorem test_g7_rfi_pop : after (user 0x0100 [0x6160]) (fun u => entered u 0x4001 0x0101 0) = true := by decide
theorem test_g8_skip : after (user 0x01ff [0x8812]) (fun u => entered u 0x4002 0x0201 0) = true := by decide
theorem test_g9_queued : after ((user 0x0100 [0x8540]).setIq true)
    (fun u => u.pc == 0x0101 && u.queue == [0x4001] && u.rm == 1 && u.ia == 0x40) = true := by decide
theorem test_g10_dropped : after ((user 0x0100 [0x8540]).setIa 0)
    (fun u => u.pc == 0x0101 && u.queue == [] && u.rm == 1) = true := by decide
theorem test_g12_abandoned : after (((user 0x0100 [0x63c2, 0x0310]).setSp 0x02f0).setBank 0 0x02f0 5)
    (fun u => u.bank 0 0x02ef == 1 && u.bank 0 0x02ee == 0x0102 && u.sp == 0x02ed && u.reg .a == 0x4002) = true := by decide
theorem test_g14_drm : after ((user 0x0100 [0x02e0]).setRm 5) (fun u => u.reg .a == 5 && u.rm == 1) = true := by decide
theorem test_g15_int : after ((user 0x0100 [0x9100]).setReg .a 0x1111) (fun u => entered u 3 0x0101 0x1111) = true := by
  decide
theorem test_g16_double_fault : faults ((user 0x0100 [0x8b01]).setSp 0x0200) .doubleFault = true := by decide
theorem test_g17_no_tables : after (State.reset.setRm 1) (fun u => u.pc == 1 && u.rm == 1) = true := by decide
theorem test_g20_unassigned : ([0x0018, 0x8419, 0x0000, 0x0040].all (fun w =>
    faults (prog 0 [w]) .undefinedInstruction)) = true := by decide

/-- `ADD [0x0110], [0x0210]` in user mode: checks of the first word, two next words and the read of a, all made, and of the
read of b, denied, and a cycle for each next word, 7 cycles; a privileged instruction spends the check of its first word
(70_reset_and_hazards.md R340, R344). The cost of the GPF itself is free. -/
theorem test_denied_cycles : after ((user 0x0100 [0x7bc2, 0x0210, 0x0110]).setIq true)
    (fun u => decide (u.pc = 0x0103 ∧ u.queue = [0x4002])) = true ∧
    (user 0x0100 [0x7bc2, 0x0210, 0x0110]).userCycles ((user 0x0100 [0x7bc2, 0x0210, 0x0110]).readModifyWriteAccesses
      (.op (.abs 0x0110)) (.op (.abs 0x0210))) = 7 ∧
    exec (.iaq (.short 0)) (user 0x0100 [0x8580]) = raiseGpf .ins 0x0101 ((user 0x0100 [0x8580]).addCycles 1) :=
  ⟨by decide, by decide, by rfl⟩

/-! ### Devices and delivered interrupts -/

/-- A device raises an interrupt; it is delivered in the same step, and the handler's first instruction runs
(60_exceptions.md R270; log 26). -/
theorem test_device_interrupt : after (((((prog 0 [0x8401]).setBank 0 0x40 0x0041).setDevices [disk]).setIa
    0x40).setDeviceEvents [[.interrupt 0 9]])
    (fun u => u.reg .c == 9 && u.iq && u.pc == 0x41 && u.bank 0 0xffff == 0) = true := by decide
theorem test_device_write_before_hwi : step ((State.reset.setDevices [disk]).setDeviceEvents [[.write 0 (.reg .a 1)]]) =
    .refused .invalidDevice := by rfl

/-! ## Witnesses: for every statement with hypotheses a concrete state and operands that meet them, clause by clause -/

section Witnesses

/-- Register A as b, register B as a, and the word at address 0x0210 (or 0x0110, which no user may read or write). -/
abbrev bA : BOperand := .op (.reg .a)
abbrev aB : AOperand := .op (.reg .b)
abbrev bAbs : BOperand := .op (.abs 0x0210)
abbrev aAbs : AOperand := .op (.abs 0x0210)
abbrev bDenied : BOperand := .op (.abs 0x0110)
abbrev aDenied : AOperand := .op (.abs 0x0110)

/-- A user state of part 3 of 95_test_vectors.md at 0x0100, with 5 at 0x0210. -/
abbrev userAt : State := (user 0x0100 [0x8401]).setBank 0 0x0210 5

/-- A kernel state with a device, an addressed one, and an answer to the next HWI. -/
abbrev withDisk : State :=
  ((State.reset.setDevices [disk, { disk with hwiSeen := true }]).setHwiAnswers
    [{ extraCycles := 1, writes := [.reg .c 1, .pc 7, .mem 0 9 7] }])

/-- A queue of `n` messages. -/
def full (s : State) (n : Nat) : State := s.setQueue (List.replicate n 0)

theorem full_length (s : State) (n : Nat) : (full s n).queue.length = n := List.length_replicate

theorem witness_DecodeEncode : Instr.wellFormed (.set .push (.short 30)) = true ∧
    Instr.wellFormed (.set .push (.short 0xffff)) = true := by decide

theorem witness_EncodeDecode : decode [0x7fc1, 0x0020, 0x1000, 5] =
    .ok (.set (.op (.abs 0x1000)) (.op (.lit 0x0020)), [5]) := by decide

theorem witness_FirstWordFields : Instr.wellFormed (.set .push (.short 30)) = true ∧
    Instr.operandB (.set .push (.short 30)) = some .push ∧ Instr.wellFormed (.jsr (.short 0xffff)) = true ∧
    Instr.operandB (.jsr (.short 0xffff)) = none := by decide

theorem witness_ShortLiterals : 0x20 ≤ 0x20 ∧ 0x20 ≤ 0x3f ∧ 0x20 ≤ 0x3f ∧ 0x3f ≤ 0x3f := by decide

theorem witness_UnassignedOpcodesStop : Instr.basic18 .push .pop ∈ [Instr.basic18 .push .pop, .special1f .pop] ∧
    Instr.special1f .pop ∈ [Instr.basic18 .push .pop, .special1f .pop] := by decide

theorem witness_StepRunsDecodedInstruction :
    let s := ((prog 0 [0x8401, 0, 0]).setDevices [disk]).setDeviceEvents [[.interrupt 0 9]]
    ∃ t u, s.onFire = false ∧ devicePhase s = .next t ∧ interruptPhase t = .next u ∧ u.permits .execute u.pc = true ∧
      decode u.fetchWords = .ok (.set bA (.short 0), [0, 0]) := ⟨_, _, rfl, rfl, rfl, rfl, rfl⟩

theorem witness_StepRunsDecodedInstruction_quiet : (prog 0 [0x8401, 0, 0]).Quiet ∧
    (prog 0 [0x8401, 0, 0]).permits .execute (prog 0 [0x8401, 0, 0]).pc = true ∧
    decode (prog 0 [0x8401, 0, 0]).fetchWords = .ok (.set bA (.short 0), [0, 0]) :=
  ⟨⟨rfl, rfl, Or.inr rfl⟩, rfl, rfl⟩

theorem witness_StepKeepsInvariant : State.Inv (prog 0 [0x8401]) ∧ ∃ t, step (prog 0 [0x8401]) = .next t :=
  ⟨⟨by decide, by decide, by decide, rfl, by decide⟩, _, rfl⟩

/-- Queueing on; a message with IA = 0; one that enters in user mode; one whose frame is denied. -/
theorem witness_InterruptPhaseDelivers :
    (State.reset.setIq true).iq = true ∧
    ((State.reset.setQueue [5]).iq = false ∧ (State.reset.setQueue [5]).queue = [5] ∧ (State.reset.setQueue [5]).ia = 0) ∧
    ((userAt.setQueue [5, 6]).iq = false ∧ (userAt.setQueue [5, 6]).queue = [5, 6] ∧ (userAt.setQueue [5, 6]).ia ≠ 0 ∧
      (userAt.setQueue [5, 6]).allowsFrame = true) ∧
    (((userAt.setSp 0x0202).setQueue [5]).iq = false ∧ ((userAt.setSp 0x0202).setQueue [5]).queue = [5] ∧
      ((userAt.setSp 0x0202).setQueue [5]).ia ≠ 0 ∧ ((userAt.setSp 0x0202).setQueue [5]).allowsFrame = false) := by
  decide

theorem witness_QueueLimit :
    (full withDisk 255).queue.length < 256 ∧
    256 ≤ (full withDisk 256).queue.length ∧
    1 < (full withDisk 255).devices.length ∧ { State.reset with onFire := true }.onFire = true :=
  ⟨by rw [full_length]; decide, by rw [full_length], by decide, rfl⟩

theorem witness_InterruptEntry : State.reset.ia = 0 ∧ State.reset.rm = 0 ∧
    (userAt.ia ≠ 0 ∧ userAt.allowsFrame = true) ∧
    ((userAt.setSp 0x0202).ia ≠ 0 ∧ (userAt.setSp 0x0202).allowsFrame = false) := by decide

theorem witness_RfiInvertsEntry :
    (userAt.ia ≠ 0 ∧ (userAt.srtCalled = true ∨ userAt.rm = 0) ∧ ∃ t, deliver 5 userAt = .next t) ∧
    ((State.reset.setIa 0x40).ia ≠ 0 ∧ ((State.reset.setIa 0x40).srtCalled = true ∨ (State.reset.setIa 0x40).rm = 0) ∧
      ∃ t, deliver 5 (State.reset.setIa 0x40) = .next t) :=
  ⟨⟨by decide, Or.inl rfl, _, rfl⟩, by decide, Or.inr rfl, _, rfl⟩

theorem witness_GpfIsAnInterrupt :
    ((userAt.setIq true).iq = true ∧ (full (userAt.setIq true) 255).queue.length < 256) ∧
    256 ≤ (full (userAt.setIq true) 256).queue.length ∧
    ((userAt.setIa 0).iq = false ∧ (userAt.setIa 0).ia = 0) ∧
    (userAt.iq = false ∧ userAt.ia ≠ 0 ∧ userAt.allowsFrame = true) ∧
    ((userAt.setSp 0x0202).iq = false ∧ (userAt.setSp 0x0202).ia ≠ 0 ∧ (userAt.setSp 0x0202).allowsFrame = false) :=
  ⟨⟨rfl, by rw [full_length]; decide⟩, by rw [full_length], by decide, by decide, by decide⟩

theorem witness_PrivilegedInUserMode : userAt.rm ≠ 0 ∧ (userAt.setRm 0xffff).rm ≠ 0 := by decide

/-- The first word at 0x0200 is denied after a device's interrupt has been dropped, IA being 0. -/
theorem witness_DeniedAccessRaisesGpf_phases :
    let s := (((user 0x0200 [0x8401]).setIa 0).setDevices [disk]).setDeviceEvents [[.interrupt 0 9]]
    ∃ t u, s.onFire = false ∧ devicePhase s = .next t ∧ interruptPhase t = .next u ∧ t.queue = [9] ∧
      u.permits .execute u.pc = false := ⟨_, _, rfl, rfl, rfl, rfl, rfl⟩

/-- Denied: the first word at 0x0200; an operand at 0x0110; a next word at 0x0200. -/
theorem witness_DeniedAccessRaisesGpf :
    ((user 0x0200 [0x8401]).Quiet ∧ (user 0x0200 [0x8401]).permits .execute (user 0x0200 [0x8401]).pc = false) ∧
    userAt.allowsReadModifyWrite bDenied aB = false ∧ userAt.allowsMove bDenied aB = false ∧
    userAt.allowsCompare bA aDenied = false ∧ userAt.allowsSource aDenied = false ∧ userAt.allowsTarget aDenied = false ∧
    (user 0x01ff [0x7c01]).allowsMove bA (.op (.lit 1)) = false :=
  ⟨⟨⟨rfl, rfl, Or.inr rfl⟩, rfl⟩, by decide⟩

theorem witness_KernelModeChecksNothing : State.reset.rm = 0 ∧ userAt.rm ≠ 0 := by decide

/-- AddResult, SubResult, MulResult, MliResult, DivResult, DviResult, RemainderResults, LogicResults, ShrResult, AsrResult,
ShlResult and CarryResults: kernel mode, and user mode with allowed accesses. -/
theorem witness_allowsReadModifyWrite : State.reset.allowsReadModifyWrite .push .pop = true ∧
    userAt.allowsReadModifyWrite bAbs aAbs = true := by decide

/-- SetResult and StepMoves. -/
theorem witness_allowsMove : State.reset.allowsMove .push .pop = true ∧ userAt.allowsMove bAbs aAbs = true := by decide

theorem witness_TestPasses : userAt.allowsCompare bAbs aAbs = true ∧
    (Instr.ife bAbs aAbs, userAt.valueB bAbs aAbs = userAt.valueA aAbs) ∈
      conditionals bAbs aAbs (userAt.valueB bAbs aAbs) (userAt.valueA aAbs) ∧
    userAt.valueB bAbs aAbs = userAt.valueA aAbs := ⟨by decide, by simp [conditionals], by decide⟩

/-- A chain of no conditional, and one of two. -/
theorem witness_TestFailsSkips :
    ((prog 0 [0x8812, 0x8401]).allowsCompare bA (.short 1) = true ∧
      (prog 0 [0x8812, 0x8401]).skipChainAt 0 ((prog 0 [0x8812, 0x8401]).pcAfterAB bA (.short 1))) ∧
    (prog 0 [0x8812, 0x8832, 0x8852, 0x8861]).skipChainAt 2 ((prog 0 [0x8812, 0x8832, 0x8852, 0x8861]).pcAfterAB bA
      (.short 1)) ∧
    (Instr.ife bA (.short 1), (0 : Word) = 1) ∈ conditionals bA (.short 1) 0 1 ∧ ¬(0 : Word) = 1 ∧
    (prog 0 [0x8812, 0x8401]).valueB bA (.short 1) = 0 ∧ (prog 0 [0x8812, 0x8401]).valueA (.short 1) = 1 :=
  ⟨⟨by decide, by decide, by decide⟩, ⟨by decide, by decide, by decide, by decide, by decide, by decide⟩,
    by simp [conditionals], by decide, by decide, by decide⟩

/-- The skipped instruction itself may not be fetched (n = 0); the one after a conditional may not (n = 1). -/
theorem witness_DeniedSkipRaisesGpf :
    ((user 0x01ff [0x8812]).allowsCompare bA (.short 1) = true ∧
      (user 0x01ff [0x8812]).permits .execute ((user 0x01ff [0x8812]).afterInstrs 0
        ((user 0x01ff [0x8812]).pcAfterAB bA (.short 1))) = false) ∧
    (∀ m, m < 1 → (user 0x01fe [0x8812, 0x8832]).permits .execute ((user 0x01fe [0x8812, 0x8832]).afterInstrs m
        ((user 0x01fe [0x8812, 0x8832]).pcAfterAB bA (.short 1))) = true ∧
      (user 0x01fe [0x8812, 0x8832]).conditionalAt ((user 0x01fe [0x8812, 0x8832]).afterInstrs m
        ((user 0x01fe [0x8812, 0x8832]).pcAfterAB bA (.short 1))) = true) ∧
    (user 0x01fe [0x8812, 0x8832]).permits .execute ((user 0x01fe [0x8812, 0x8832]).afterInstrs 1
      ((user 0x01fe [0x8812, 0x8832]).pcAfterAB bA (.short 1))) = false :=
  ⟨by decide, fun m hm => by
    obtain rfl : m = 0 := by omega
    decide, by decide⟩

/-- Bank 0 filled with `IFE A, 1` (0x8812). -/
def endless : State :=
  State.reset.setMem ((List.range' 0 131072).map (fun k => (k, if k % 2 = 0 then 0x12 else 0x88)))

theorem find_filled (f : Nat → Byte) (n : Nat) : ∀ (m k : Nat), m ≤ k → k < m + n →
    Sparse.find ((List.range' m n).map (fun k => (k, f k))) k = some (f k) := by
  induction n with
  | zero => intro m k h1 h2; omega
  | succ n ih =>
    intro m k h1 h2
    rw [List.range'_succ, List.map_cons, Sparse.find]
    split
    · next h => rw [h]
    · exact ih (m + 1) k (by omega) (by omega)

theorem endless_word (w : Word) : endless.bank 0 w = 0x8812 := by
  have hw := w.isLt
  have h : ∀ k, k < 131072 → endless.mem.byte k = if k % 2 = 0 then 0x12 else 0x88 :=
    fun k hk => congrArg (Option.getD · _) (find_filled _ 131072 0 k (Nat.zero_le k) (by omega))
  have h0 : cellKey 0 w = 2 * w.toNat := by unfold cellKey; simp
  show (endless.mem.byte (cellKey 0 w + 1) ++ endless.mem.byte (cellKey 0 w) : BitVec 16) = 0x8812
  rw [h0, h _ (by omega), h _ (by omega), if_neg (by omega), if_pos (by omega)]
  rfl

theorem witness_EndlessSkipStops : endless.allowsCompare bA (.short 1) = true ∧
    (∀ n, endless.permits .execute (endless.afterInstrs n (endless.pcAfterAB bA (.short 1))) = true ∧
      endless.conditionalAt (endless.afterInstrs n (endless.pcAfterAB bA (.short 1))) = true) ∧
    ¬endless.valueB bA (.short 1) = endless.valueA (.short 1) := by
  refine ⟨State.allowsCompare_kernel _ _ _ rfl, fun n => ⟨State.permits_kernel rfl _ _, ?_⟩, ?_⟩
  · show isConditionalWord (endless.bank 0 _) = true
    rw [endless_word]; rfl
  · show ¬(0 : Word) = 1
    decide

theorem witness_JsrResult :
    (userAt.allowsSource aAbs = true ∧ userAt.permits .write (userAt.spAfterA aAbs - 1) = true) ∧
    userAt.allowsSource aDenied = false ∧ (userAt.setSp 0x0200).permits .write ((userAt.setSp 0x0200).spAfterA aB - 1) =
      false := by decide

/-- ControlRegisterReads and DrmResult. -/
theorem witness_allowsTarget : userAt.allowsTarget aAbs = true ∧ userAt.allowsTarget aDenied = false ∧
    State.reset.allowsTarget .pop = true := by decide

/-- MboResult, InterruptControl, RfiResult and HwnResult. -/
theorem witness_kernel_and_user : State.reset.rm = 0 ∧ userAt.rm ≠ 0 ∧ withDisk.devices.length ≤ 65535 := by decide

theorem witness_IntResult : userAt.allowsSource aAbs = true ∧ userAt.allowsSource aDenied = false ∧
    ((userAt.setIq true).iq = true ∧ (full (userAt.setIq true) 255).queue.length < 256) ∧
    256 ≤ (full (userAt.setIq true) 256).queue.length ∧
    ((userAt.setIa 0).iq = false ∧ (userAt.setIa 0).ia = 0) ∧
    (userAt.iq = false ∧ userAt.ia ≠ 0 ∧
      ((userAt.setPc (userAt.pcAfterA aAbs)).setSp (userAt.spAfterA aAbs)).allowsFrame = true) ∧
    (((userAt.setSp 0x0202).setPc (userAt.pcAfterA aAbs)).setSp ((userAt.setSp 0x0202).spAfterA aAbs)).allowsFrame =
      false := ⟨by decide, by decide, ⟨rfl, by rw [full_length]; decide⟩, by rw [full_length], by decide, by decide, by decide⟩

/-- Device 1 is the last one, 2 is none. -/
theorem witness_HwqResult : withDisk.rm = 0 ∧
    withDisk.devices[(withDisk.valueA (.short 1)).toNat]? = some { disk with hwiSeen := true } ∧
    withDisk.devices.length ≤ (withDisk.valueA (.short 2)).toNat := by decide

/-- An allowed answer, one that bank 3 forbids, and no device. -/
theorem witness_HwiResult :
    let s := withDisk.setHwiAnswers [{ extraCycles := 0, writes := [.ex 5, .mem 3 9 7] }]
    (withDisk.rm = 0 ∧ withDisk.devices[(withDisk.valueA (.short 0)).toNat]? = some disk ∧
      (∀ w ∈ (withDisk.hwiAnswers.headD { extraCycles := 0, writes := [] }).writes, disk.info.Reaches w) ∧
      withDisk.devices.length ≤ (withDisk.valueA (.short 2)).toNat) ∧
    s.rm = 0 ∧ s.devices[(s.valueA (.short 0)).toNat]? = some disk ∧
      ∃ w ∈ (s.hwiAnswers.headD { extraCycles := 0, writes := [] }).writes, ¬disk.info.Reaches w := by
  simp only [← DeviceInfo.mayWrite_iff]
  decide

theorem witness_SrtCompilesTables : State.reset.rm = 0 ∧ 0 < 256 ∧ 255 < 256 ∧ userAt.rm ≠ 0 := by decide

/-- Every clause of CycleCosts has an instruction that completes in kernel mode. -/
theorem witness_CycleCosts : State.reset.rm = 0 ∧
    (∀ i ∈ [Instr.set bA aB, .and bA aB, .add bA aB, .sti bA aB, .div bA aB, .adx bA aB, .ife bA aB, .mbg aB, .iag aB,
      .ias aB, .iaq aB, .grm aB, .drm aB, .jsr aB, .rfi aB, .int aB, .hwn aB], completes (exec i State.reset) = true) ∧
    completes (exec (.ifn bA aB) (prog 0 [0, 0x8401])) = true ∧
    (prog 0 [0, 0x8401]).skipChainAt 0 ((prog 0 [0, 0x8401]).pcAfterAB bA aB) ∧
    completes (exec (.mbo (.short 1)) State.reset) = true ∧ completes (exec (.hwi (.short 0)) withDisk) = true ∧
    completes (exec (.hwq (.short 1)) withDisk) = true :=
  ⟨by decide, by decide, by decide, ⟨by decide, by decide⟩, by decide, by decide, by decide⟩

/-- SRT completes in kernel mode and captures the message. -/
theorem witness_CycleCosts_ControlRegisterWriters_srt :
    ∃ t, exec (.srt (.short 1)) State.reset = .next t ∧ t.srtCalled ≠ State.reset.srtCalled := by
  have h : State.reset.userMode = false := rfl
  have e : exec (.srt (.short 1)) State.reset = .next ((compileTables 1 ((State.reset.afterA (.short 1)).addCycles
      0)).addCycles 4) := by
    show execSrt _ _ = _
    rw [execSrt, kernelOnly_kernel h, withValue_kernel h]; rfl
  exact ⟨_, e, by simp [compileTables]; decide⟩

/-- Every clause of CheckCosts has an instruction that completes in user mode; IFN fails and skips the word at 0x0101. -/
theorem witness_CheckCosts : userAt.rm ≠ 0 ∧ userAt.allowsMove bAbs aAbs = true ∧
    userAt.allowsReadModifyWrite bAbs aAbs = true ∧ userAt.allowsCompare bA aB = true ∧
    userAt.allowsTarget aAbs = true ∧ userAt.allowsSource aAbs = true ∧
    userAt.permits .write (userAt.spAfterA aAbs - 1) = true ∧ (userAt.setIa 0).ia = 0 ∧
    (∀ i ∈ [Instr.set bAbs aAbs, .sti bAbs aAbs, .and bAbs aAbs, .add bAbs aAbs, .div bAbs aAbs, .ife bA aB, .mbg aAbs,
      .grm aAbs, .jsr aAbs], completes (exec i userAt) = true) ∧
    completes (exec (.int aAbs) (userAt.setIa 0)) = true ∧
    (userAt.iq = false ∧ userAt.ia ≠ 0 ∧ completes (exec (.int aAbs) userAt) = true) ∧
    completes (exec (.ifn bA aB) (user 0x0100 [0x0413, 0x8401])) = true ∧
    (user 0x0100 [0x0413, 0x8401]).skipChainAt 0 ((user 0x0100 [0x0413, 0x8401]).pcAfterAB bA aB) :=
  ⟨by decide, by decide, by decide, by decide, by decide, by decide, by decide, rfl, by decide, by decide, by decide, by decide,
    ⟨by decide, by decide⟩⟩

/-- Two interrupts, filling the queue of 254, and a change by an addressed device; a change by a device not yet addressed. -/
theorem witness_DevicePhaseConfined_acts :
    let s := (full withDisk 254).setDeviceEvents [[.interrupt 0 9, .write 1 (.mem 0 9 7), .interrupt 1 8], []]
    let u := withDisk.setDeviceEvents [[.interrupt 0 9, .write 0 (.pc 7)]]
    ((∀ e ∈ s.deviceEvents.headD [], s.Allows e) ∧
      s.queue.length + (messages (s.deviceEvents.headD [])).length ≤ 256) ∧
    (∃ e ∈ u.deviceEvents.headD [], ¬u.Allows e) ∧
      u.queue.length + (messages (u.deviceEvents.headD [])).length ≤ 256 := by
  intro s u
  refine ⟨⟨fun e he => ?_, ?_⟩, ⟨.write 0 (.pc 7), ?_, ?_⟩, by decide⟩
  · replace he : e = .interrupt 0 9 ∨ e = .write 1 (.mem 0 9 7) ∨ e = .interrupt 1 8 := by simpa [s] using he
    rcases he with rfl | rfl | rfl
    · show 0 < 2; decide
    · exact ⟨{ disk with hwiSeen := true }, rfl, rfl, DeviceInfo.mayWrite_iff.1 rfl⟩
    · show 1 < 2; decide
  · show (full withDisk 254).queue.length + 2 ≤ 256
    rw [full_length]
  · simp [u]
  · rintro ⟨d, hd, hs, _⟩
    cases hd; cases hs

/-- An interrupt and a change by an addressed device; an interrupt before any HWI. -/
theorem witness_DevicePhaseConfined :
    let s := (withDisk.setBank 0 9 6).setDeviceEvents [[.interrupt 0 9, .write 1 (.mem 0 9 7)]]
    let u := (State.reset.setDevices [disk]).setDeviceEvents [[.interrupt 0 9]]
    (∃ t, devicePhase s = .next t ∧ t.bank 0 9 ≠ s.bank 0 9) ∧ (∃ t, devicePhase u = .next t) ∧
      ∀ d ∈ u.devices, d.hwiSeen = false :=
  ⟨⟨_, rfl, by decide⟩, ⟨_, rfl⟩, by decide⟩

theorem witness_DevicesConstant :
    let s := (State.reset.setDevices [{ disk with hwiSeen := true }]).putWords 0 [0x8401]
    ∃ t, step s = .next t ∧ s.devices[0]? = some { disk with hwiSeen := true } ∧
      t.devices[0]? = some { disk with hwiSeen := true } := ⟨_, rfl, rfl, rfl⟩

theorem witness_UserModeConfined : (userAt.setIq true).rm ≠ 0 ∧ (userAt.setIq true).iq = true ∧
    ∃ t, instructionPhase (userAt.setIq true) = .next t := ⟨by decide, rfl, _, rfl⟩

/-- The push of 0x8b01 (`SET PUSH, 1`) to 0x02ff, which held 9. -/
theorem witness_UserModeWritesArePermitted :
    let s := (user 0x0100 [0x8b01]).setBank 0 0x02ff 9
    s.rm ≠ 0 ∧ ∃ t, instructionPhase s = .next t ∧ t.bank 0 0x02ff ≠ s.bank 0 0x02ff :=
  ⟨by decide, _, rfl, by decide⟩

/-- INT in user mode, DRM in kernel mode, an interrupt delivered in user mode. -/
theorem witness_RingModeChanges :
    ((user 0x0100 [0x9100]).rm ≠ 0 ∧ ∃ t, instructionPhase (user 0x0100 [0x9100]) = .next t ∧ t.rm = 0) ∧
    ((prog 0 [0x02e0]).rm = 0 ∧ ∃ t, instructionPhase (prog 0 [0x02e0]) = .next t ∧ t.rm ≠ 0) ∧
    (∃ t, devicePhase userAt = .next t) ∧
    (∃ t, interruptPhase (userAt.setQueue [5]) = .next t ∧ t.rm ≠ (userAt.setQueue [5]).rm) :=
  ⟨⟨by decide, _, rfl, rfl⟩, ⟨rfl, _, rfl, by decide⟩, ⟨_, rfl⟩, ⟨_, rfl, by decide⟩⟩

/-- MBO 1 and IAS 30 change MB and IA; srt_called stays. -/
theorem witness_ControlRegisterWriters :
    (∃ t, step (prog 0 [0x88c0]) = .next t ∧ t.mb ≠ (prog 0 [0x88c0]).mb) ∧
    (∃ t, step (prog 0 [0xfd40]) = .next t ∧ t.ia ≠ (prog 0 [0xfd40]).ia) ∧
    (userAt.srtCalled = true ∧ ∃ t, step userAt = .next t) :=
  ⟨⟨_, rfl, by decide⟩, ⟨_, rfl, by decide⟩, rfl, _, rfl⟩

/-- EX changed by ADD, by SET EX and by a device. -/
theorem witness_ExWriters :
    (∃ t, exec (.add bA (.short 30)) (State.reset.setReg .a 0xffff) = .next t ∧ t.ex ≠ (State.reset.setReg .a 0xffff).ex) ∧
    (∃ t, exec (.set (.op .ex) (.short 7)) State.reset = .next t ∧ t.ex ≠ State.reset.ex) ∧
    (∃ t, exec (.grm (.op .ex)) (State.reset.setEx 5) = .next t ∧ t.ex ≠ (State.reset.setEx 5).ex) ∧
    (∃ t, exec (.hwi (.short 0)) (withDisk.setHwiAnswers [{ extraCycles := 0, writes := [.ex 3] }]) = .next t ∧
      t.ex ≠ (withDisk.setHwiAnswers [{ extraCycles := 0, writes := [.ex 3] }]).ex) :=
  ⟨⟨_, rfl, by decide⟩, ⟨_, rfl, by decide⟩, ⟨_, rfl, by decide⟩, ⟨_, rfl, by decide⟩⟩

/-- The same two words written in either order. -/
theorem witness_MemoryIsItsWords :
    let m := Memory.setWord (Memory.setWord [] 0 5 7) 3 0xffff 9
    let m' := Memory.setWord (Memory.setWord [] 3 0xffff 9) 0 5 7
    (m.wf ∧ m'.wf ∧ (∀ key, (m.listed key).isSome = (m'.listed key).isSome) ∧
      ∀ (k : BankNo) (w : Word), m.word k w = m'.word k w) ∧
    (0 ≠ cellKey 0 5 ∧ 0 ≠ cellKey 0 5 + 1) ∧ cellKey 0 6 ≠ cellKey 0 5 ∧ cellKey 0 6 ≠ cellKey 0 5 + 1 :=
  ⟨⟨by decide, by decide, fun _ => rfl, fun _ _ => rfl⟩, by decide, by decide, by decide⟩

end Witnesses

end Sys2Proof.Tests
end

section
/-! The machine right after reset (spec/10_state.md R42). -/

namespace Sys2Proof.Machine

@[simp] theorem State.reset_rm : State.reset.rm = 0 := rfl

@[simp] theorem State.reset_mb : State.reset.mb = 0 := rfl

/-- Settles O8: R42's two reset values, one field each. -/
theorem resetRingAndBank : Obligations.ResetRingAndBank :=
  ⟨State.reset_rm, State.reset_mb⟩

end Sys2Proof.Machine
end

section
/-! The short literals of the a field (spec/40_operands.md R146): the top bit of the field selects them. -/

namespace Sys2Proof.Machine

theorem decodeA_of_msb {f : BitVec 6} (h : f.msb = true) (n : Word) :
    decodeA f n = .short (f.setWidth 16 - 0x21) := by
  rw [decodeA, if_pos h]

/-- The upper half of the six-bit field values is the half with the top bit. -/
theorem msb_ofNat_of_shortField {f : Nat} (hlo : 0x20 ≤ f) (hhi : f ≤ 0x3f) : (BitVec.ofNat 6 f).msb = true := by
  rw [BitVec.msb_eq_decide, decide_eq_true_iff, BitVec.toNat_ofNat]
  omega

/-- The decoder's subtraction of words is R146's trunc16 of a difference of integers. -/
theorem shortLiteral_eq_trunc16 {f : Nat} (hhi : f ≤ 0x3f) :
    (BitVec.ofNat 6 f).setWidth 16 - 0x21 = BitVec.ofInt 16 ((f : Int) - 0x21) := by
  rw [BitVec.setWidth_ofNat_of_le_of_lt (by decide) (by omega : f < 2 ^ 6), Int.sub_eq_add_neg, BitVec.ofInt_add,
    BitVec.ofInt_natCast, BitVec.sub_eq_add_neg]
  rfl

theorem decodeA_shortField {f : Nat} (hlo : 0x20 ≤ f) (hhi : f ≤ 0x3f) (n : Word) :
    decodeA (BitVec.ofNat 6 f) n = .short (BitVec.ofInt 16 ((f : Int) - 0x21)) := by
  rw [decodeA_of_msb (msb_ofNat_of_shortField hlo hhi), shortLiteral_eq_trunc16 hhi]

@[simp] theorem AOperand.loc_short (v : Word) (s : State) : AOperand.loc (.short v) s = .lit v := rfl

@[simp] theorem AOperand.words_short (v : Word) : (AOperand.short v).words = 0 := rfl

/-- Settles O5: such a field decodes to a short literal, whose location is its value and which has no next word. -/
theorem shortLiterals : Obligations.ShortLiterals := by
  intro f next s hlo hhi
  rw [decodeA_shortField hlo hhi]
  exact ⟨AOperand.loc_short _ s, AOperand.words_short _⟩

end Sys2Proof.Machine
end

section
/-! Completion of a basic instruction (spec/40_operands.md R131, R150): from the shape of its meaning and the value of its
function of Flags to the frame of Safety. -/

namespace Sys2Proof.Machine

section BasicInstr

variable {s : State} {b : BOperand} {a : AOperand} {cost : Nat}

/-- An instruction that reads and writes b sets it, and EX, to what its function gives. -/
theorem readModifyWrite_setsB {f : Word → Word → Word → Word × Option Word} {r : Result} {v : Word} {ex : Option Word}
    (hr : r = readModifyWrite cost f b a s) (ha : s.allowsReadModifyWrite b a = true)
    (hf : f s.ex (s.valueB b a) (s.valueA a) = (v, ex)) : ∃ t, r = .next t ∧ s.SetsB t b a v ex := by
  obtain ⟨t, ht, hset⟩ := readModifyWrite_completes s b a cost f ha
  rw [hf] at hset
  exact ⟨t, hr.trans ht, hset⟩

/-- An instruction that writes a's value to b, then does `after`. -/
theorem moveThen_completes {after : State → State} (hafter : ∀ t n, after (State.addCycles t n) = (after t).addCycles n)
    (ha : s.allowsMove b a = true) :
    ∃ u n, moveThen cost after b a s = .next ((after u).addCycles n) ∧ s.SetsB u b a (s.valueA a) none :=
  ⟨_, _, by rw [moveThen_eq b a s cost after hafter, if_pos ha]; rfl, s.setsB_store b a 0 none (s.valueA a)⟩

end BasicInstr

end Sys2Proof.Machine
end

section
/-! The functions of Flags for moves and arithmetic (spec/41_move_arith.md R162 to R166) in the operations of bit vectors.
The model computes with integers and narrows last; a field of a wide two's complement word is the narrowed integer. -/

namespace Sys2Proof.Machine

/-! ## Narrowing -/

/-- Dividing a remainder by a factor of its modulus drops that factor from the modulus. -/
theorem int_emod_mul_ediv (n : Int) {k m : Int} (hk : 0 < k) : n % (k * m) / k = n / k % m := by
  rw [Int.emod_def, Int.emod_def, Int.mul_assoc, Int.sub_mul_ediv_left _ _ (Int.ne_of_gt hk),
    Int.ediv_ediv_of_nonneg (Int.le_of_lt hk)]

/-- A field of an integer narrowed to `w` bits: shift first, then narrow to the field. -/
theorem extractLsb'_ofInt {w start len : Nat} (h : start + len ≤ w) (n : Int) :
    (BitVec.ofInt w n).extractLsb' start len = BitVec.ofInt len (n >>> start) := by
  obtain ⟨m, rfl⟩ := Nat.exists_eq_add_of_le (Nat.le_of_add_right_le h)
  have hpow : ∀ k : Nat, (2 ^ k : Int) ≠ 0 := fun k => by positivity
  have hfield : n % (2 ^ start * 2 ^ m) / 2 ^ start % 2 ^ len = n / 2 ^ start % 2 ^ len := by
    rw [int_emod_mul_ediv n (by positivity), Int.emod_emod_of_dvd _ (pow_dvd_pow 2 (by omega))]
  apply BitVec.eq_of_toNat_eq
  apply Nat.cast_injective (R := Int)
  simpa [BitVec.extractLsb'_toNat, BitVec.toNat_ofInt, Int.shiftRight_eq_div_pow, Nat.shiftRight_eq_div_pow, pow_add,
    Int.toNat_of_nonneg, Int.emod_nonneg, hpow] using hfield

theorem extractLsb'_ofNat {w start len : Nat} (h : start + len ≤ w) (n : Nat) :
    (BitVec.ofNat w n).extractLsb' start len = BitVec.ofNat len (n >>> start) := by
  rw [← BitVec.ofInt_natCast, extractLsb'_ofInt h, ← Int.natCast_shiftRight, BitVec.ofInt_natCast]

theorem trunc16Nat_toNat (v : Word) : trunc16Nat v.toNat = v := by
  rw [trunc16Nat, BitVec.ofNat_toNat, BitVec.setWidth_eq]

theorem trunc16Nat_add (x y : Nat) : trunc16Nat (x + y) = trunc16Nat x + trunc16Nat y := BitVec.ofNat_add x y

theorem trunc16_sub (v w : Word) : trunc16 ((v.toNat : Int) - (w.toNat : Int)) = v - w := by
  rw [trunc16, Int.sub_eq_add_neg, BitVec.ofInt_add, BitVec.ofInt_neg, BitVec.ofInt_natCast, BitVec.ofInt_natCast,
    BitVec.sub_eq_add_neg, ← trunc16Nat, ← trunc16Nat, trunc16Nat_toNat, trunc16Nat_toNat]

/-! ## Products in 32 bits -/

theorem zeroExtend_mul (v w : Word) : v.zeroExtend 32 * w.zeroExtend 32 = BitVec.ofNat 32 (v.toNat * w.toNat) := by
  rw [BitVec.ofNat_mul, BitVec.ofNat_toNat, BitVec.ofNat_toNat]

theorem signExtend_mul (v w : Word) : v.signExtend 32 * w.signExtend 32 = BitVec.ofInt 32 (signed v * signed w) :=
  (BitVec.ofInt_mul _ _).symm

/-! ## Results and EX -/

section Outputs

variable (ex vb va : Word)

theorem addOut_eq : addOut ex vb va = (vb + va, some (if vb.toNat + va.toNat > 0xffff then 0x0001 else 0x0000)) := by
  rw [addOut, trunc16Nat_add, trunc16Nat_toNat, trunc16Nat_toNat]

/-- The difference is below 0 exactly when b is below a: a borrow. -/
theorem subOut_eq : subOut ex vb va = (vb - va, some (if vb.toNat < va.toNat then 0xffff else 0x0000)) := by
  have hborrow : (vb.toNat : Int) - (va.toNat : Int) < 0 ↔ vb.toNat < va.toNat := by omega
  simp only [subOut, trunc16_sub, hborrow]

theorem mulOut_eq : mulOut ex vb va = ((vb.zeroExtend 32 * va.zeroExtend 32).extractLsb' 0 16,
    some ((vb.zeroExtend 32 * va.zeroExtend 32).extractLsb' 16 16)) := by
  rw [zeroExtend_mul, extractLsb'_ofNat (by decide), extractLsb'_ofNat (by decide), Nat.shiftRight_zero]
  rfl

theorem mliOut_eq : mliOut ex vb va = ((vb.signExtend 32 * va.signExtend 32).extractLsb' 0 16,
    some ((vb.signExtend 32 * va.signExtend 32).extractLsb' 16 16)) := by
  rw [signExtend_mul, extractLsb'_ofInt (by decide), extractLsb'_ofInt (by decide), Int.shiftRight_zero]
  rfl

theorem divOut_eq : divOut ex vb va = (if va = 0 then 0 else vb / va,
    some (if va = 0 then 0 else BitVec.ofNat 16 (vb.toNat * 65536 / va.toNat))) := by
  rw [divOut]
  split
  · rfl
  · rw [BitVec.udiv_def]
    rfl

end Outputs

end Sys2Proof.Machine
end

section
/-! The obligations of moves and arithmetic (spec/41_move_arith.md R161 to R166): the opcode, the shape of the meaning and
the value of its function. -/

namespace Sys2Proof.Machine

/-! ## The meanings as shapes -/

section Arms

variable (b : BOperand) (a : AOperand) (s : State)

theorem exec_set : exec (.set b a) s = moveThen 1 id b a s := rfl
theorem exec_add : exec (.add b a) s = readModifyWrite 2 addOut b a s := rfl
theorem exec_sub : exec (.sub b a) s = readModifyWrite 2 subOut b a s := rfl
theorem exec_mul : exec (.mul b a) s = readModifyWrite 2 mulOut b a s := rfl
theorem exec_mli : exec (.mli b a) s = readModifyWrite 2 mliOut b a s := rfl
theorem exec_div : exec (.div b a) s = readModifyWrite 3 divOut b a s := rfl

end Arms

/-! ## The obligations -/

/-- Settles O21: SET is the move that does nothing after it. -/
theorem setResult : Obligations.SetResult := by
  refine fun b a s => ⟨rfl, fun ha => ?_⟩
  obtain ⟨u, n, hu, hset⟩ := moveThen_completes (cost := 1) (after := id) (fun _ _ => rfl) ha
  exact ⟨u.addCycles n, (exec_set b a s).trans hu, hset.addCycles n⟩

/-- Settles O22: the sum as words, and its carry. -/
theorem addResult : Obligations.AddResult :=
  fun _ _ _ => ⟨rfl, fun ha => readModifyWrite_setsB (exec_add ..) ha (addOut_eq ..)⟩

/-- Settles O23: the difference as words, and its borrow. -/
theorem subResult : Obligations.SubResult :=
  fun _ _ _ => ⟨rfl, fun ha => readModifyWrite_setsB (exec_sub ..) ha (subOut_eq ..)⟩

/-- Settles O24: both words of the unsigned product come from one field law. -/
theorem mulResult : Obligations.MulResult :=
  fun _ _ _ => ⟨rfl, fun ha => readModifyWrite_setsB (exec_mul ..) ha (mulOut_eq ..)⟩

/-- Settles O25: both words of the signed product come from the same field law on integers. -/
theorem mliResult : Obligations.MliResult :=
  fun _ _ _ => ⟨rfl, fun ha => readModifyWrite_setsB (exec_mli ..) ha (mliOut_eq ..)⟩

/-- Settles O26: the two quotients, and 0 twice when a is 0. -/
theorem divResult : Obligations.DivResult :=
  fun _ _ _ => ⟨rfl, fun ha => readModifyWrite_setsB (exec_div ..) ha (divOut_eq ..)⟩

end Sys2Proof.Machine
end

section
/-! The obligation of AND, BOR and XOR (spec/42_logic_shift.md R181 to R183): the opcodes, the shape of the meanings and the
values of their functions. -/

namespace Sys2Proof.Machine

/-! ## The meanings as shapes -/

section LogicArms

variable (b : BOperand) (a : AOperand) (s : State)

theorem exec_and : exec (.and b a) s = readModifyWrite 1 andOut b a s := rfl
theorem exec_bor : exec (.bor b a) s = readModifyWrite 1 borOut b a s := rfl
theorem exec_xor : exec (.xor b a) s = readModifyWrite 1 xorOut b a s := rfl

end LogicArms

/-! ## The values of the functions -/

section LogicOutputs

variable (ex vb va : Word)

theorem andOut_eq : andOut ex vb va = (vb &&& va, none) := rfl
theorem borOut_eq : borOut ex vb va = (vb ||| va, none) := rfl
theorem xorOut_eq : xorOut ex vb va = (vb ^^^ va, none) := rfl

end LogicOutputs

/-! ## The obligation -/

/-- Settles O29: each of the three reads b, combines it with a bit by bit and writes b, with no new EX. -/
theorem logicResults : Obligations.LogicResults := by
  refine fun b a s => ⟨rfl, rfl, rfl, fun ha => ⟨?and, ?bor, ?xor⟩⟩
  case and => exact readModifyWrite_setsB (exec_and b a s) ha (andOut_eq ..)
  case bor => exact readModifyWrite_setsB (exec_bor b a s) ha (borOut_eq ..)
  case xor => exact readModifyWrite_setsB (exec_xor b a s) ha (xorOut_eq ..)

end Sys2Proof.Machine
end

section
/-! The obligation of STI and STD (spec/44_carry_loop.md R209, R210): what stepping I and J changes, and each of
the two instructions as a move followed by a step. -/

namespace Sys2Proof.Machine

section Step

variable (u : State) (d : Word) (n : Nat)

/-! ## Stepping I and J -/

theorem State.stepIJ_reg (r : Reg) : (u.stepIJ d).reg r = if r = .i ∨ r = .j then u.reg r + d else u.reg r := by
  cases r <;> simp [State.stepIJ, State.reg_setReg]

@[simp] theorem State.stepIJ_pc : (u.stepIJ d).pc = u.pc := rfl
@[simp] theorem State.stepIJ_sp : (u.stepIJ d).sp = u.sp := rfl
@[simp] theorem State.stepIJ_ex : (u.stepIJ d).ex = u.ex := rfl
@[simp] theorem State.stepIJ_bank (k : BankNo) (w : Word) : (u.stepIJ d).bank k w = u.bank k w := rfl

theorem State.sameSystem_stepIJ_addCycles : u.SameSystem ((u.stepIJ d).addCycles n) := by constructor <;> rfl

end Step

/-! ## The meanings as shapes -/

section StepArms

variable (b : BOperand) (a : AOperand) (s : State)

theorem exec_sti : exec (.sti b a) s = moveThen 2 (fun t => t.stepIJ 1) b a s := rfl
theorem exec_std : exec (.std b a) s = moveThen 2 (fun t => t.stepIJ (-1)) b a s := rfl

end StepArms

/-! ## The obligation -/

/-- Settles O34: each is a move to b and then a step by the number beside it, so when b is I or J the step starts from the
value moved there. -/
theorem stepMoves : Obligations.StepMoves := by
  refine fun b a s => ⟨rfl, rfl, fun ha p hp => ?_⟩
  have hexec : exec p.1 s = moveThen 2 (fun t => t.stepIJ p.2) b a s := by
    obtain rfl | rfl : p = (.sti b a, 1) ∨ p = (.std b a, -1) := by simpa using hp
    · exact exec_sti b a s
    · exact exec_std b a s
  obtain ⟨u, n, hu, hset⟩ := moveThen_completes (cost := 2) (after := fun t => t.stepIJ p.2)
    (fun t n => t.stepIJ_addCycles n p.2) ha
  exact ⟨(u.stepIJ p.2).addCycles n, u, hexec.trans hu, hset, u.stepIJ_reg p.2, u.stepIJ_pc p.2, u.stepIJ_sp p.2,
    u.stepIJ_ex p.2, u.stepIJ_bank p.2, u.sameSystem_stepIJ_addCycles p.2 n⟩

end Sys2Proof.Machine
end

section
/-! The obligations of the encoding (spec/30_encoding.md R101 to R105, spec/40_operands.md R132 to R146): the first word
is its three fields, which the decoder reads back, and the next words follow in memory order. -/

namespace Sys2Proof

/-! ## The first word of an instruction -/

section FirstWord

variable {i : Instr} {b : BOperand}

theorem Instr.firstWord_basic (h : i.operandB = some b) : i.firstWord = i.operandA.field ++ b.field ++ i.opcode := by
  rw [Instr.firstWord, h]

theorem Instr.firstWord_special (h : i.operandB = none) : i.firstWord = i.operandA.field ++ i.opcode ++ 0#5 := by
  rw [Instr.firstWord, h]

theorem Instr.nextWords_basic (h : i.operandB = some b) :
    i.nextWords = i.operandA.nextWord.toList ++ b.nextWord.toList := by
  rw [Instr.nextWords, h]

theorem Instr.nextWords_special (h : i.operandB = none) : i.nextWords = i.operandA.nextWord.toList := by
  rw [Instr.nextWords, h, List.append_nil]

theorem Instr.length_eq_nextWords (i : Instr) : i.length = 1 + i.nextWords.length := by
  rw [Instr.length, Instr.nextWords]
  cases i.operandB <;> simp [AOperand.words, BOperand.words, Nat.add_assoc]

/-- The first word alone announces the length of the whole instruction (R103). -/
theorem wordLength_firstWord (hw : i.wellFormed = true) : wordLength i.firstWord = i.length := by
  have hA := nextWordsOfValue_a i.operandA hw
  rw [wordLength, Instr.length]
  cases hB : i.operandB with
  | none =>
    obtain ⟨ha, _, ho⟩ := fields_append i.operandA.field i.opcode 0#5
    rw [Instr.firstWord_special hB, ha, ho, hA]
    rfl
  | some b =>
    obtain ⟨ha, hb, ho⟩ := fields_append i.operandA.field b.field i.opcode
    rw [Instr.firstWord_basic hB, ha, hb, ho, hA, if_neg (decodeBasic_opcode i b hB).2, nextWordsOfValue_b]

/-- The number of three fields side by side (R101). -/
theorem toNat_fields (fa : BitVec 6) (fb fo : BitVec 5) :
    (fa ++ fb ++ fo : BitVec 16).toNat = fa.toNat * 1024 + fb.toNat * 32 + fo.toNat := by
  rw [BitVec.toNat_append, BitVec.toNat_append, ← Nat.shiftLeft_add_eq_or_of_lt fb.isLt,
    ← Nat.shiftLeft_add_eq_or_of_lt fo.isLt]
  omega

end FirstWord

/-! ## Decoding what was encoded -/

/-- The decoder gives an instruction back from its first word and its next words, whatever stands where it has none. -/
theorem decodeWords_firstWord {i : Instr} (hw : i.wellFormed = true) (rest : List Word) :
    decodeWords i.firstWord ((i.nextWords ++ rest).getD 0 0) ((i.nextWords ++ rest).getD 1 0) = i := by
  have hA : i.operandA.nextWord = some ((i.nextWords ++ rest).getD 0 0) ∨ i.operandA.nextWord = none := by
    rw [Instr.nextWords]
    cases i.operandA.nextWord <;> simp
  rw [decodeWords]
  cases hB : i.operandB with
  | none =>
    obtain ⟨ha, hb, ho⟩ := fields_append i.operandA.field i.opcode 0#5
    rw [Instr.firstWord_special hB, ha, hb, ho, decodeA_field _ _ hw hA]
    exact decodeSpecial_opcode i hB
  | some b =>
    obtain ⟨ha, hb, ho⟩ := fields_append i.operandA.field b.field i.opcode
    obtain ⟨hi, hne⟩ := decodeBasic_opcode i b hB
    rw [Instr.firstWord_basic hB, ha, hb, ho, if_neg hne, decodeA_field _ _ hw hA, nextWordsOfValue_a _ hw]
    refine Eq.trans (congrArg (fun c => decodeBasic _ c _) (decodeB_field b _ ?_)) hi
    rw [Instr.nextWords_basic hB, AOperand.words]
    cases i.operandA.nextWord <;> cases b.nextWord <;> simp

/-- Settles O1: the length announced is the one encoded, so the decoder takes exactly the instruction's own words. -/
theorem decodeEncode : Obligations.DecodeEncode := by
  intro i rest hw
  have hlen : wordLength i.firstWord - 1 = i.nextWords.length := by
    rw [wordLength_firstWord hw, Instr.length_eq_nextWords]
    omega
  rw [encode, List.cons_append, decode, hlen, if_neg (by simp), decodeWords_firstWord hw, List.drop_left]

/-! ## Encoding what was decoded -/

/-- The instruction a first word decodes to has this first word. -/
theorem firstWord_decodeWords (w w1 w2 : Word) :
    (decodeWords w w1 w2).wellFormed = true ∧ (decodeWords w w1 w2).firstWord = w := by
  obtain ⟨hwf, hfa, _⟩ := decodeA_spec (fieldA w) w1
  rw [decodeWords]
  split
  · next ho =>
    obtain ⟨hop, hA, hB⟩ := decodeSpecial_spec (fieldB w) (decodeA (fieldA w) w1)
    refine ⟨(congrArg _ hA).trans hwf, ?_⟩
    rw [Instr.firstWord_special hB, hop, hA, hfa]
    exact (congrArg (fun o => fieldA w ++ fieldB w ++ o) ho.symm).trans (word_fields w)
  · next ho =>
    obtain ⟨hop, hA, hB⟩ := decodeBasic_spec (fieldO w)
      (decodeB (fieldB w) (if nextWordsOfValue (fieldA w).toNat = 0 then w1 else w2)) (decodeA (fieldA w) w1) ho
    refine ⟨(congrArg _ hA).trans hwf, ?_⟩
    rw [Instr.firstWord_basic hB, hop, hA, hfa, (decodeB_spec _ _).1]
    exact word_fields w

theorem nextWordsOfValue_le (f : Nat) : nextWordsOfValue f ≤ 1 := by
  unfold nextWordsOfValue
  split <;> omega

/-- The words two operands take from the head of a list, `na` and `nb` of them, the first operand first (R104). -/
theorem operandWords_eq_take {na nb : Nat} (hna : na ≤ 1) (hnb : nb ≤ 1) {ws : List Word} (h : na + nb ≤ ws.length) :
    (if na = 0 then none else some (ws.getD 0 0)).toList ++
      (if nb = 0 then none else some (if na = 0 then ws.getD 0 0 else ws.getD 1 0)).toList = ws.take (na + nb) := by
  obtain rfl | rfl : na = 0 ∨ na = 1 := by omega
  all_goals
    obtain rfl | rfl : nb = 0 ∨ nb = 1 := by omega
    all_goals obtain _ | ⟨x, _ | ⟨y, ws⟩⟩ := ws <;> simp at h ⊢

/-- Its next words are the first of the list, as many as the first word announces. -/
theorem nextWords_decodeWords (w : Word) (tail : List Word) (h : wordLength w - 1 ≤ tail.length) :
    (decodeWords w (tail.getD 0 0) (tail.getD 1 0)).nextWords = tail.take (wordLength w - 1) := by
  obtain ⟨_, _, hna⟩ := decodeA_spec (fieldA w) (tail.getD 0 0)
  have hla := nextWordsOfValue_le (fieldA w).toNat
  rw [wordLength, Nat.add_assoc, Nat.add_sub_cancel_left] at h ⊢
  rw [decodeWords]
  by_cases ho : fieldO w = 0
  · obtain ⟨_, hA, hB⟩ := decodeSpecial_spec (fieldB w) (decodeA (fieldA w) (tail.getD 0 0))
    rw [if_pos ho] at h ⊢
    rw [if_pos ho, Instr.nextWords_special hB, hA, hna, ← operandWords_eq_take hla (Nat.zero_le 1) h, if_pos rfl,
      Option.toList_none, List.append_nil]
  · obtain ⟨_, hA, hB⟩ := decodeBasic_spec (fieldO w) (decodeB (fieldB w)
      (if nextWordsOfValue (fieldA w).toNat = 0 then tail.getD 0 0 else tail.getD 1 0))
      (decodeA (fieldA w) (tail.getD 0 0)) ho
    rw [if_neg ho] at h ⊢
    rw [if_neg ho, Instr.nextWords_basic hB, hA, hna, (decodeB_spec _ _).2]
    exact operandWords_eq_take hla (nextWordsOfValue_le _) h

/-- Settles O2: the first word and the next words of what was decoded are the words it was read from. -/
theorem encodeDecode : Obligations.EncodeDecode := by
  intro ws rest i h
  cases ws with
  | nil => cases h
  | cons w tail =>
    rw [decode] at h
    split at h
    · cases h
    · next hlen =>
      cases h
      obtain ⟨hwf, hfirst⟩ := firstWord_decodeWords w (tail.getD 0 0) (tail.getD 1 0)
      refine ⟨hwf, ?_⟩
      rw [encode, hfirst, nextWords_decodeWords w tail (Nat.le_of_not_lt hlen), List.cons_append, List.take_append_drop]

/-! ## Fields and samples -/

/-- Settles O3: the fields weigh 1024, 32 and 1, and the encoding has as many words as the first one announces. -/
theorem firstWordFields : Obligations.FirstWordFields := by
  intro i hw
  have hlen : (encode i).length = i.length := Laws.EncodedLength.of_operands i
  have hA := Machine.AOperand.words_le i.operandA
  refine ⟨fun b hB => ⟨?basic, (decodeBasic_opcode i b hB).2⟩, fun hB => ?special,
    (wordLength_firstWord hw).trans hlen.symm, by rw [hlen, Instr.length]; omega, ?atMostThree⟩
  case basic => rw [Instr.firstWord_basic hB, toNat_fields]
  case special => rw [Instr.firstWord_special hB, toNat_fields, BitVec.toNat_zero, Nat.add_zero]
  case atMostThree =>
    rw [hlen, Instr.length]
    cases i.operandB with
    | none => simp only; omega
    | some b =>
      have hB := Machine.BOperand.words_le b
      simp only
      omega

/-- Settles O4: seventeen closed word lists, each evaluated by the decoder. -/
theorem sampleWordsDecode : Obligations.SampleWordsDecode := by
  refine ⟨?_, ?_, ?_, ?_, ?_, ?_, ?_, ?_, ?_, ?_, ?_, ?_, ?_, ?_, ?_, ?_, ?_⟩
  all_goals decide

end Sys2Proof
end

section
/-! The obligation of operand locations (spec/40_operands.md R132 to R145): the register forms through the operand they
decode to, every other field value by evaluating the decoder on it. -/

namespace Sys2Proof.Machine

/-! ## The fields that name a register -/

section RegisterFields

variable (r : Reg) (n : Word)

theorem decode_regField : decodeA (0#3 ++ r.code) n = .op (.reg r) ∧ decodeB (0#2 ++ r.code) n = .op (.reg r) := by
  cases r <;> exact ⟨rfl, rfl⟩

theorem decode_indField : decodeA (1#3 ++ r.code) n = .op (.ind r) ∧ decodeB (1#2 ++ r.code) n = .op (.ind r) := by
  cases r <;> exact ⟨rfl, rfl⟩

theorem decode_indOffField :
    decodeA (2#3 ++ r.code) n = .op (.indOff r n) ∧ decodeB (2#2 ++ r.code) n = .op (.indOff r n) := by
  cases r <;> exact ⟨rfl, rfl⟩

end RegisterFields

/-! ## SP and next words -/

/-- Only POP, whose field is 0x18, moves SP (R135). -/
theorem AOperand.spAfter_decodeA {f : BitVec 6} (hf : f ≠ 0x18) (n : Word) (s : State) :
    AOperand.spAfter (decodeA f n) s = s.sp := by
  have hfield := (decodeA_spec f n).2.1
  cases ha : decodeA f n with
  | pop => rw [ha] at hfield; exact absurd hfield.symm hf
  | op o => rfl
  | short v => rfl

/-- Only PUSH, whose field is 0x18, moves SP (R136). -/
theorem BOperand.spAfter_decodeB {f : BitVec 5} (hf : f ≠ 0x18) (n : Word) (s : State) :
    BOperand.spAfter (decodeB f n) s = s.sp := by
  have hfield := (decodeB_spec f n).1
  cases hb : decodeB f n with
  | push => rw [hb] at hfield; exact absurd hfield.symm hf
  | op o => rfl

/-- A next word is there or not, as many times as the field announces. -/
theorem length_toList_ite {k : Nat} (hk : k ≤ 1) (n : Word) : (if k = 0 then none else some n).toList.length = k := by
  obtain rfl | rfl : k = 0 ∨ k = 1 := by omega
  · rfl
  · rfl

theorem words_decodeA (f : BitVec 6) (n : Word) : (decodeA f n).words = nextWordsOfValue f.toNat := by
  rw [AOperand.words, (decodeA_spec f n).2.2, length_toList_ite (nextWordsOfValue_le _)]

theorem words_decodeB (f : BitVec 5) (n : Word) : (decodeB f n).words = nextWordsOfValue f.toNat := by
  rw [BOperand.words, (decodeB_spec f n).2, length_toList_ite (nextWordsOfValue_le _)]

/-! ## The obligation -/

/-- Settles O6: 24 field values of each field name a register, the others are evaluated one by one. -/
theorem operandLocations : Obligations.OperandLocations := by
  refine fun s n => ⟨fun r => ?registers, rfl, rfl, rfl, rfl, rfl, rfl, rfl, rfl, rfl, rfl, rfl, rfl, rfl, rfl, rfl,
    rfl, rfl, rfl, fun f hf => AOperand.spAfter_decodeA hf n s, fun f hf => BOperand.spAfter_decodeB hf n s,
    fun f => words_decodeA f n, fun f => words_decodeB f n, fun _ => rfl, fun _ => rfl, rfl, rfl, rfl, rfl⟩
  case registers =>
    obtain ⟨hregA, hregB⟩ := decode_regField r n
    obtain ⟨hindA, hindB⟩ := decode_indField r n
    obtain ⟨hoffA, hoffB⟩ := decode_indOffField r n
    rw [hregA, hregB, hindA, hindB, hoffA, hoffB]
    exact ⟨rfl, rfl, rfl, rfl, rfl, rfl⟩

end Sys2Proof.Machine
end

section
/-! What an instruction and the interrupt phase keep of the system state (spec/10_state.md R29 to R40): one frame for
every kind of effect an instruction can have, from which the invariant and the writers of the control registers follow.
-/

namespace Sys2Proof.Machine

/-- What every instruction keeps: each control register but for its one writer, which is privileged, the canonical
forms, the bound of the queue, and the devices but for their marks. -/
structure State.Keeps (s t : State) (i : Instr) : Prop where
  mb : t.mb = s.mb ∨ s.rm = 0 ∧ ∃ a, i = .mbo a
  ia : t.ia = s.ia ∨ s.rm = 0 ∧ ∃ a, i = .ias a
  tables : (t.perm = s.perm ∧ t.gdtMsg = s.gdtMsg ∧ t.srtCalled = s.srtCalled) ∨ s.rm = 0 ∧ ∃ a, i = .srt a
  srtCalled : s.srtCalled = true → t.srtCalled = true
  devices : t.devices = s.devices ∨ ∃ n, t.devices = (s.markHwi n).devices
  onFire : t.onFire = s.onFire
  queue_le : s.queue.length ≤ Config.queueLimit → t.queue.length ≤ Config.queueLimit
  mem_wf : s.mem.wf → t.mem.wf
  perm_wf : s.perm.wf → t.perm.wf

section Keeps

variable {s t u : State} {i : Instr}

theorem State.SameSystem.keeps (h : s.SameSystem t) (hm : s.mem.wf → t.mem.wf) : s.Keeps t i where
  mb := .inl h.mb
  ia := .inl h.ia
  tables := .inl ⟨h.perm, h.gdtMsg, h.srtCalled⟩
  srtCalled := h.srtCalled.trans
  devices := .inl h.devices
  onFire := h.onFire
  queue_le hq := h.queue ▸ hq
  mem_wf := hm
  perm_wf hp := h.perm ▸ hp

theorem State.Triggered.keeps (h : s.Triggered t) : s.Keeps t i where
  mb := .inl h.mb
  ia := .inl h.ia
  tables := .inl ⟨h.perm, h.gdtMsg, h.srtCalled⟩
  srtCalled := h.srtCalled.trans
  devices := .inl h.devices
  onFire := h.onFire
  queue_le := h.queue_le
  mem_wf := h.mem_wf
  perm_wf hp := h.perm ▸ hp

theorem mboCopy_wf {m : Memory} (h : m.wf) (va : Word) : (mboCopy va m).wf := by
  unfold mboCopy
  split
  · exact h
  · exact Memory.copy_wf _ _ _ _ m h

/-- What an HWI keeps: the device's changes leave the system state, so only its mark and the script are gone. -/
theorem State.keeps_hwi {a : AOperand} {c : Nat} {d : Device} (h : deviceWrites d.info s.hwiAnswer.writes
    ((((s.afterA a).markHwi (s.valueA a).toNat).setHwiAnswers s.hwiAnswers.tail).addCycles c) = .next t) :
    s.Keeps t i := by
  obtain ⟨hsys, _, hwf, _⟩ := deviceWrites_next h
  exact { mb := .inl hsys.mb, ia := .inl hsys.ia, tables := .inl ⟨hsys.perm, hsys.gdtMsg, hsys.srtCalled⟩,
          srtCalled := hsys.srtCalled.trans, devices := .inr ⟨_, hsys.devices⟩, onFire := hsys.onFire,
          queue_le := fun hq => hsys.queue ▸ hq, mem_wf := hwf, perm_wf := fun hp => hsys.perm ▸ hp }

/-- Each privileged instruction keeps all but the one thing it writes. -/
theorem State.KernelEffect.keeps (hu : s.rm = 0) (h : s.KernelEffect t i) : s.Keeps t i := by
  cases h with
  | mbo h =>
    subst h
    exact ⟨.inr ⟨hu, _, rfl⟩, .inl rfl, .inl ⟨rfl, rfl, rfl⟩, id, .inl rfl, rfl, id, fun hm => mboCopy_wf hm _, id⟩
  | ias h =>
    subst h
    exact ⟨.inl rfl, .inr ⟨hu, _, rfl⟩, .inl ⟨rfl, rfl, rfl⟩, id, .inl rfl, rfl, id, id, id⟩
  | rfi h => subst h; exact ⟨.inl rfl, .inl rfl, .inl ⟨rfl, rfl, rfl⟩, id, .inl rfl, rfl, id, id, id⟩
  | iaq h => subst h; exact ⟨.inl rfl, .inl rfl, .inl ⟨rfl, rfl, rfl⟩, id, .inl rfl, rfl, id, id, id⟩
  | hwq h => subst h; exact ⟨.inl rfl, .inl rfl, .inl ⟨rfl, rfl, rfl⟩, id, .inl rfl, rfl, id, id, id⟩
  | hwi _ h => exact State.keeps_hwi h
  | srt h =>
    subst h
    exact ⟨.inl rfl, .inl rfl, .inr ⟨hu, _, rfl⟩, fun _ => rfl, .inl rfl, rfl, id, id, fun _ => compiledTable_wf _ _⟩

/-- INT triggers its interrupt in a state in which only pc, SP and the cycle counter have moved. -/
theorem State.triggered_int {a : AOperand} {m : Word} {c : Nat}
    (h : triggerSoft m ((s.afterA a).addCycles c) = .next t) : s.Triggered t := by
  obtain ⟨h1, h2, h3, h4, h5, h6, h7, h8, h9, h10, h11, h12, h13, h14⟩ := triggerSoft_triggered h
  exact ⟨h1, h2, h3, h4, h5, h6, h7, h8, h9, h10, h11, h12, h13, h14⟩

theorem State.Executed.keeps (h : s.Executed t i) : s.Keeps t i := by
  cases h with
  | ordinary h => exact h.system.keeps h.mem_wf
  | gpf h => exact h.triggered.keeps
  | @drm a _ _ h ht =>
    subst ht
    have hk := h.system.keeps (i := .drm a) h.mem_wf
    exact ⟨.inl h.system.mb, .inl h.system.ia, .inl ⟨h.system.perm, h.system.gdtMsg, h.system.srtCalled⟩,
      h.system.srtCalled.trans, .inl h.system.devices, h.system.onFire, hk.queue_le, h.mem_wf, hk.perm_wf⟩
  | int h => exact (State.triggered_int h).keeps
  | kernel hu h => exact h.keeps (State.userMode_eq_false_iff.1 hu)

/-- The interrupt phase takes at most the oldest message out of the queue; the rest is the interrupt's doing. -/
theorem interruptPhase_triggered (h : interruptPhase s = .next t) :
    ∃ q, q.length ≤ s.queue.length ∧ (s.setQueue q).Triggered t := by
  rcases interruptPhase_next h with ⟨_, rfl⟩ | ⟨m, rest, hiq, hq, h⟩
  · exact ⟨t.queue, le_rfl, State.triggered_refl t⟩
  · obtain ⟨h1, h2, h3, h4, h5, h6, h7, h8, h9, h10, h11, h12, h13, h14⟩ := deliver_triggered h hiq
    exact ⟨rest, by simp [hq], h1, h2, h3, h4, h5, h6, h7, h8, h9, h10, h11, h12, h13, h14⟩

end Keeps

/-! ## The invariant -/

section Invariant

variable {s t : State}

theorem State.DevicesActed.inv (h : s.DevicesActed t) (hi : s.Inv) : t.Inv :=
  ⟨h.mem_wf hi.mem_wf, h.perm ▸ hi.perm_wf, h.queue_le hi.queue_le, h.onFire.trans hi.not_on_fire,
    h.devices ▸ hi.devices_le⟩

theorem State.Keeps.inv {i : Instr} (h : s.Keeps t i) (hi : s.Inv) : t.Inv := by
  refine ⟨h.mem_wf hi.mem_wf, h.perm_wf hi.perm_wf, h.queue_le hi.queue_le, h.onFire.trans hi.not_on_fire, ?_⟩
  rcases h.devices with hd | ⟨n, hd⟩
  · exact hd ▸ hi.devices_le
  · rw [hd, State.markHwi_length]
    exact hi.devices_le

theorem interruptPhase_inv (h : interruptPhase s = .next t) (hi : s.Inv) : t.Inv := by
  obtain ⟨q, hq, ht⟩ := interruptPhase_triggered h
  have hinv : (s.setQueue q).Inv :=
    ⟨hi.mem_wf, hi.perm_wf, hq.trans hi.queue_le, hi.not_on_fire, hi.devices_le⟩
  exact (ht.keeps (i := s.instrAtPc)).inv hinv

/-- Settles O12: each of the three phases keeps the invariant. -/
theorem stepKeepsInvariant : Obligations.StepKeepsInvariant := by
  intro s t hi h
  obtain ⟨_, u, v, hu, hv, ht⟩ := step_next h
  have hscript : (s.setDeviceEvents s.deviceEvents.tail).Inv :=
    ⟨hi.mem_wf, hi.perm_wf, hi.queue_le, hi.not_on_fire, hi.devices_le⟩
  have huInv : u.Inv := (devicePhase_next hu).inv hscript
  have hvInv : v.Inv := interruptPhase_inv hv huInv
  exact (instructionPhase_next ht).keeps.inv hvInv

end Invariant

/-! ## The writers of the control registers -/

section Writers

variable {s u v t : State}

/-- The phases before the instruction change no control register and no device but those of interrupt entry. -/
theorem phases_keep (hu : devicePhase s = .next u) (hv : interruptPhase u = .next v) :
    v.mb = s.mb ∧ v.ia = s.ia ∧ v.perm = s.perm ∧ v.gdtMsg = s.gdtMsg ∧ v.srtCalled = s.srtCalled ∧
      v.devices = s.devices := by
  have ha := devicePhase_next hu
  obtain ⟨q, _, hb⟩ := interruptPhase_triggered hv
  exact ⟨hb.mb.trans ha.mb, hb.ia.trans ha.ia, hb.perm.trans ha.perm, hb.gdtMsg.trans ha.gdtMsg,
    hb.srtCalled.trans ha.srtCalled, hb.devices.trans ha.devices⟩

/-- Settles O56: what differs from `s` after the step differs from the state the instruction started in. -/
theorem controlRegisterWriters : Obligations.ControlRegisterWriters := by
  intro s t h
  obtain ⟨_, u, v, hu, hv, ht⟩ := step_next h
  obtain ⟨hmb, hia, hperm, hmsg, hsrt, _⟩ := phases_keep hu hv
  have hk := (instructionPhase_next ht).keeps
  refine ⟨u, v, hu, hv, fun hne => ?mb, fun hne => ?ia, fun hne => ?tables, fun hs => hk.srtCalled (hsrt.trans hs)⟩
  case mb => exact hk.mb.resolve_left fun he => hne (he.trans hmb)
  case ia => exact hk.ia.resolve_left fun he => hne (he.trans hia)
  case tables =>
    refine hk.tables.resolve_left fun ⟨hp, hg, hc⟩ => ?_
    rcases hne with hne | hne | hne
    exacts [hne (hp.trans hperm), hne (hg.trans hmsg), hne (hc.trans hsrt)]

theorem State.markHwi_getElem? (s : State) (n m : Nat) :
    (s.markHwi n).devices[m]? = s.devices[m]?.map fun d => if n = m then { d with hwiSeen := true } else d := by
  simp [State.markHwi, List.getElem?_modify]

/-- Settles O52: the first two phases keep the devices, and the instruction changes at most a mark, to true. -/
theorem devicesConstant : Obligations.DevicesConstant := by
  intro s t h
  obtain ⟨_, u, v, hu, hv, ht⟩ := step_next h
  obtain ⟨_, _, _, _, _, hdev⟩ := phases_keep hu hv
  rcases (instructionPhase_next ht).keeps.devices with hd | ⟨n, hd⟩
  · have he : t.devices = s.devices := hd.trans hdev
    rw [he]
    exact ⟨rfl, fun m d e hm he hs => by rw [hm] at he; cases he; exact hs⟩
  · refine ⟨by rw [hd, State.markHwi_infos, hdev], fun m d e hm he hs => ?_⟩
    rw [hd, State.markHwi_getElem?, hdev, hm] at he
    cases he
    dsimp only
    split
    · rfl
    · exact hs

end Writers

end Sys2Proof.Machine
end

section
/-! What user mode confines (spec/20_memory.md R80 to R82, spec/60_exceptions.md R285 to R287): one frame for every
instruction performed in user mode, and the ways the ring mode can change. -/

namespace Sys2Proof.Machine

/-- What an instruction performed in user mode leaves: the control state of the kernel as it was, queueing not turned
off, no message gone and at most one more, and words changed only where they may be written. -/
structure State.Confined (s t : State) : Prop where
  mb : t.mb = s.mb
  ia : t.ia = s.ia
  perm : t.perm = s.perm
  gdtMsg : t.gdtMsg = s.gdtMsg
  srtCalled : t.srtCalled = s.srtCalled
  devices : t.devices = s.devices
  onFire : t.onFire = s.onFire
  iq : s.iq = true → t.iq = true
  queue : t.queue = s.queue ∨ ∃ m, t.queue = s.queue ++ [m]
  bank : ∀ k w, t.bank k w ≠ s.bank k w → k = s.mb ∧ s.permits .write w = true

section Confined

variable {s t : State} {i : Instr}

theorem State.Ordinary.confined (h : s.Ordinary t) : s.Confined t :=
  ⟨h.system.mb, h.system.ia, h.system.perm, h.system.gdtMsg, h.system.srtCalled, h.system.devices, h.system.onFire,
    h.system.iq.trans, .inl h.system.queue, h.bank⟩

theorem State.Triggered.confined (h : s.Triggered t) : s.Confined t :=
  ⟨h.mb, h.ia, h.perm, h.gdtMsg, h.srtCalled, h.devices, h.onFire, h.iq, h.queue, h.bank⟩

/-- In user mode the privileged effects are out of reach. -/
theorem State.Executed.confined (h : s.Executed t i) (hu : s.rm ≠ 0) : s.Confined t := by
  cases h with
  | ordinary h => exact h.confined
  | gpf h => exact h.triggered.confined
  | drm h ht =>
    subst ht
    have hc := h.confined
    exact ⟨hc.mb, hc.ia, hc.perm, hc.gdtMsg, hc.srtCalled, hc.devices, hc.onFire, hc.iq, hc.queue, hc.bank⟩
  | int h => exact (State.triggered_int h).confined
  | kernel hk _ => exact absurd (State.userMode_eq_false_iff.1 hk) hu

/-- Settles O53: the frame of user mode, its first nine fields. -/
theorem userModeConfined : Obligations.UserModeConfined := by
  intro s t hu h
  obtain ⟨hmb, hia, hperm, hmsg, hsrt, hdev, hfire, hiq, hq, _⟩ := (instructionPhase_next h).confined hu
  exact ⟨hmb, hia, hperm, hmsg, hsrt, hdev, hfire, hiq, hq⟩

/-- In user mode the flag of the page in the selected bank decides (20_memory.md R78 to R81). -/
theorem State.permits_user (hu : s.rm ≠ 0) (x : Access) (addr : Word) :
    s.permits x addr = true ↔ s.perm.flags s.mb (addr.toNat / 256) &&& x.flag ≠ 0 := by
  rw [State.permits, State.userMode_iff.2 hu, Bool.not_true, Bool.false_or, bne_iff_ne]
  rfl

/-- Settles O54: the last field of the frame, with the page's flag for the permission. -/
theorem userModeWritesArePermitted : Obligations.UserModeWritesArePermitted := by
  intro s t k w hu h hk
  obtain ⟨hmb, hw⟩ := ((instructionPhase_next h).confined hu).bank k w hk
  exact ⟨hmb, (State.permits_user hu .write w).1 hw⟩

end Confined

/-! ## The ring mode -/

section RingMode

variable {s t : State} {i : Instr}

/-- Interrupt entry in the long form, as far as the ring mode is concerned. -/
def State.EntersLong (s t : State) : Prop :=
  s.srtCalled = true ∧ s.iq = false ∧ s.ia ≠ 0 ∧ t.pc = s.ia ∧ t.iq = true ∧ t.rm = 0

/-- Of the privileged instructions RFI alone changes the ring mode, and only once SRT has been called. -/
theorem State.KernelEffect.rm (h : s.KernelEffect t i) :
    t.rm = s.rm ∨ ∃ a, i = .rfi a ∧ s.srtCalled = true := by
  cases h with
  | mbo h => subst h; exact .inl rfl
  | ias h => subst h; exact .inl rfl
  | rfi h =>
    subst h
    by_cases hs : s.srtCalled = true
    · exact .inr ⟨_, rfl, hs⟩
    · exact .inl (if_neg hs)
  | iaq h => subst h; exact .inl rfl
  | hwq h => subst h; exact .inl rfl
  | hwi _ h => exact .inl (deviceWrites_next h).1.rm
  | srt h => subst h; exact .inl rfl

/-- Every change of the ring mode by an instruction (60_exceptions.md R287). -/
theorem State.Executed.rm (h : s.Executed t i) :
    t.rm = s.rm ∨ s.EntersLong t ∨ (∃ a, i = .drm a ∧ t.rm = 1) ∨
      s.rm = 0 ∧ ∃ a, i = .rfi a ∧ s.srtCalled = true := by
  cases h with
  | ordinary h => exact .inl h.system.rm
  | gpf h => exact h.triggered.rm.imp_right .inl
  | drm h ht => subst ht; exact .inr (.inr (.inl ⟨_, rfl, rfl⟩))
  | int h => exact (State.triggered_int h).rm.imp_right .inl
  | kernel hk h => exact h.rm.imp_right fun he => .inr (.inr ⟨State.userMode_eq_false_iff.1 hk, he⟩)

/-- Settles O55: an instruction by the four ways above; the devices have none, and phase B has entry alone. -/
theorem ringModeChanges : Obligations.RingModeChanges := by
  refine fun s t => ⟨fun h hu hk => ?leave, fun h hk hu => ?enter, fun h => (devicePhase_next h).rm,
    fun h hne => ?phaseB⟩
  case leave =>
    rcases (instructionPhase_next h).rm with he | ⟨hs, hq, hi, hpc, hiq, _⟩ | ⟨a, _, h1⟩ | ⟨h0, _⟩
    · exact absurd (he.symm.trans hk) hu
    · exact ⟨hs, hq, hi, hpc, hiq⟩
    · exact absurd (h1.symm.trans hk) (by decide)
    · exact absurd h0 hu
  case enter =>
    rcases (instructionPhase_next h).rm with he | ⟨_, _, _, _, _, h0⟩ | ⟨a, ha, _⟩ | ⟨_, a, ha⟩
    · exact absurd (he.trans hk) hu
    · exact absurd h0 hu
    · exact ⟨a, .inl ha⟩
    · exact ⟨a, .inr ha⟩
  case phaseB =>
    obtain ⟨q, _, ht⟩ := interruptPhase_triggered h
    obtain ⟨hs, _, hi, hpc, _, h0⟩ := ht.rm.resolve_left hne
    exact ⟨hs, hi, h0, hpc⟩

end RingMode

/-! ## Checks -/

/-- Settles O20: no check in kernel mode, the page's flag in user mode. -/
theorem kernelModeChecksNothing : Obligations.KernelModeChecksNothing := by
  refine fun s x addr => ⟨fun hk => ?kernel, fun hu => State.permits_user hu x addr, fun b a hk => ?operands⟩
  all_goals have hm : s.userMode = false := State.userMode_eq_false_iff.2 hk
  case kernel => exact State.permits_kernel hm x addr
  case operands =>
    exact ⟨s.allowsReadModifyWrite_kernel b a hm, s.allowsMove_kernel b a hm, s.allowsCompare_kernel b a hm,
      s.allowsSource_kernel a hm, s.allowsTarget_kernel a hm⟩

end Sys2Proof.Machine
end

section
/-! The machine right after reset (spec/10_state.md R43 to R48), the limit of the queue (spec/60_exceptions.md R275),
and a step as its phases and the decoded instruction (R270). -/

namespace Sys2Proof.Machine

/-! ## Reset -/

/-- Settles O9: every value is zero, off or empty, the registers one by one. -/
theorem resetRegisters : Obligations.ResetRegisters :=
  ⟨fun r => by cases r <;> rfl, rfl, rfl, rfl, rfl, rfl, rfl, rfl, rfl, fun _ _ => rfl, rfl, rfl⟩

/-- Settles O10: nothing is listed, so every list is canonical and within its bound. -/
theorem resetInvariant : Obligations.ResetInvariant where
  mem_wf := ⟨.nil, fun _ h => nomatch h⟩
  perm_wf := ⟨⟨.nil, fun _ h => nomatch h⟩, fun _ h => nomatch h⟩
  queue_le := Nat.zero_le _
  not_on_fire := rfl
  devices_le := Nat.zero_le _

/-! ## The queue -/

section Queue

variable {s : State} (m : Word)

theorem enqueue_room (h : s.queue.length < 256) : enqueue m s = .next (s.setQueue (s.queue ++ [m])) := if_pos h

theorem enqueue_full (h : 256 ≤ s.queue.length) : enqueue m s = .fault .onFire := if_neg (Nat.not_lt.2 h)

theorem deviceEvent_interrupt {dev : Nat} (h : dev < s.devices.length) :
    deviceEvent (.interrupt dev m) s = enqueue m s := if_pos h

theorem step_onFire (h : s.onFire = true) : step s = .fault .onFire := if_pos h

end Queue

/-- Settles O14: a device's message is enqueued as any other. -/
theorem queueLimit : Obligations.QueueLimit :=
  fun _ m _ => ⟨enqueue_room m, enqueue_full m, fun hd hl => (deviceEvent_interrupt m hd).trans (enqueue_room m hl),
    fun hd hl => (deviceEvent_interrupt m hd).trans (enqueue_full m hl), step_onFire⟩

/-! ## The step -/

section Step

variable {s t u : State} {i : Instr} {rest : List Word}

theorem step_of_phases (hf : s.onFire = false) (hA : devicePhase s = .next t) (hB : interruptPhase t = .next u) :
    step s = instructionPhase u := by
  rw [step, if_neg (by simp [hf]), hA, andThen, hB, andThen]

theorem interruptPhase_idle (h : s.iq = true ∨ s.queue = []) : interruptPhase s = .next s := by
  unfold interruptPhase
  rcases h with h | h
  · rw [if_pos h]
  · rw [h, ite_self]

theorem devicePhase_idle (h : s.deviceEvents = []) : devicePhase s = .next s := by
  rw [devicePhase, h]
  exact congrArg _ (s.eq_of_fields _ rfl rfl rfl rfl rfl rfl rfl rfl rfl rfl rfl rfl rfl rfl rfl h.symm rfl rfl rfl)

theorem step_of_quiet (h : s.Quiet) : step s = instructionPhase s := by
  obtain ⟨hf, hev, hidle⟩ := h
  exact step_of_phases hf (devicePhase_idle hev) (interruptPhase_idle hidle)

/-- What the decoder reads from the words at pc is the instruction phase C performs: they are as many as the longest
instruction has. -/
theorem State.instrAtPc_of_decode (h : decode s.fetchWords = .ok (i, rest)) : s.instrAtPc = i := by
  rw [State.fetchWords, decode] at h
  split at h
  · cases h
  · cases h
    rfl

theorem instructionPhase_permitted (hp : s.permits .execute s.pc = true) : instructionPhase s = exec s.instrAtPc s :=
  if_pos hp

/-- Settles O11: the step is phase C, and phase C is the decoded instruction. -/
theorem stepRunsDecodedInstruction : Obligations.StepRunsDecodedInstruction := by
  refine ⟨fun s t u i rest hf hA hB hp hd => ?_, fun s i rest hquiet hp hd => ?_⟩
  · rw [step_of_phases hf hA hB, instructionPhase_permitted hp, State.instrAtPc_of_decode hd]
  · rw [step_of_quiet hquiet, instructionPhase_permitted hp, State.instrAtPc_of_decode hd]

end Step

end Sys2Proof.Machine
end

section
/-! Interrupts (spec/60_exceptions.md R277 to R282, R292, R296): what delivering and triggering a message answers, case
by case, and the obligations that are these cases for phase B, for delivery and for a GPF. -/

namespace Sys2Proof.Machine

/-! ## Delivering and triggering, case by case -/

section Cases

variable {s : State} (m : Word)

theorem State.allowsFrame_kernel (h : s.userMode = false) : s.allowsFrame = true := by
  simp [State.allowsFrame, State.permits_kernel h]

theorem deliver_dropped (hi : s.ia = 0) : deliver m s = .next s := if_pos hi

theorem deliver_entered (hi : s.ia ≠ 0) (hf : s.allowsFrame = true) :
    deliver m s = .next ((s.entered m).addCycles (s.checkCycles s.frameWords)) := by
  rw [deliver, if_neg hi, enterInterrupt_eq, if_pos hf]

theorem deliver_doubleFault (hi : s.ia ≠ 0) (hf : s.allowsFrame = false) : deliver m s = .fault .doubleFault := by
  rw [deliver, if_neg hi, enterInterrupt_eq, if_neg (by simp [hf])]

theorem triggerSoft_queued (hq : s.iq = true) (hl : s.queue.length < 256) :
    triggerSoft m s = .next (s.setQueue (s.queue ++ [m])) := by
  rw [triggerSoft, if_pos hq, enqueue_room m hl]

theorem triggerSoft_onFire (hq : s.iq = true) (hl : 256 ≤ s.queue.length) : triggerSoft m s = .fault .onFire := by
  rw [triggerSoft, if_pos hq, enqueue_full m hl]

theorem triggerSoft_dropped (hq : s.iq = false) (hi : s.ia = 0) : triggerSoft m s = .next s := by
  rw [triggerSoft, if_neg (by simp [hq]), deliver_dropped m hi]

theorem triggerSoft_entered (hq : s.iq = false) (hi : s.ia ≠ 0) (hf : s.allowsFrame = true) :
    triggerSoft m s = .next ((s.entered m).addCycles (s.checkCycles s.frameWords)) := by
  rw [triggerSoft, if_neg (by simp [hq]), deliver_entered m hi hf]

theorem triggerSoft_doubleFault (hq : s.iq = false) (hi : s.ia ≠ 0) (hf : s.allowsFrame = false) :
    triggerSoft m s = .fault .doubleFault := by
  rw [triggerSoft, if_neg (by simp [hq]), deliver_doubleFault m hi hf]

/-- From `s` only the counters have changed, and pc and the queue as named. -/
theorem State.continues_counters (s : State) (r : Word) (q : List Word) :
    s.Continues ((s.setPc r).addUnstatedCycles.setQueue q) r q := by
  constructor <;> rfl

end Cases

/-! ## The obligations -/

/-- Settles O15: the three cases of delivery; in kernel mode the pushes are not checked. -/
theorem interruptEntry : Obligations.InterruptEntry :=
  fun s m => ⟨deliver_dropped m, fun hi hf => ⟨_, deliver_entered m hi hf, s.entered_enters m _⟩,
    deliver_doubleFault m, fun hk => State.allowsFrame_kernel (State.userMode_eq_false_iff.2 hk)⟩

/-- Phase B takes the oldest message out of the queue and delivers it. -/
theorem interruptPhase_delivers {s : State} {m : Word} {rest : List Word} (hiq : s.iq = false)
    (hq : s.queue = m :: rest) : interruptPhase s = deliver m (s.setQueue rest).addUnstatedCycles := by
  rw [interruptPhase, if_neg (by simp [hiq]), hq]

/-- Settles O13: idle, or delivery of the oldest message in the state without it. -/
theorem interruptPhaseDelivers : Obligations.InterruptPhaseDelivers := by
  refine fun s m rest => ⟨interruptPhase_idle, fun hiq hq hi => ?dropped, fun hiq hq hi hf => ?entered,
    fun hiq hq hi hf => ?denied⟩
  all_goals rw [interruptPhase_delivers hiq hq]
  case dropped => exact ⟨_, deliver_dropped m hi, s.continues_counters s.pc rest⟩
  case entered =>
    exact ⟨_, deliver_entered m hi hf, State.EntersHandler.counters (State.entered_enters _ m _)⟩
  case denied => exact deliver_doubleFault m hi hf

/-- Settles O17: a GPF is a software interrupt of the state in which the instruction started, pc aside. -/
theorem gpfIsAnInterrupt : Obligations.GpfIsAnInterrupt := by
  intro g r s
  refine ⟨fun hq hl => ?queued, fun hq hl => ?onFire, fun hq hi => ?dropped, fun hq hi hf => ?entered,
    fun hq hi hf => ?denied, rfl, rfl⟩
  all_goals rw [raiseGpf]
  case queued => exact ⟨_, triggerSoft_queued _ hq hl, s.continues_counters r _⟩
  case onFire => exact triggerSoft_onFire _ hq hl
  case dropped => exact ⟨_, triggerSoft_dropped _ hq hi, s.continues_counters r s.queue⟩
  case entered =>
    exact ⟨_, triggerSoft_entered _ hq hi hf, State.EntersHandler.counters (State.entered_enters _ _ _)⟩
  case denied => exact triggerSoft_doubleFault _ hq hi hf

end Sys2Proof.Machine
end

section
/-! The functions of Flags for signed division, remainders, shifts and carry arithmetic (spec/41_move_arith.md R167 to
R169, spec/42_logic_shift.md R184 to R186, spec/44_carry_loop.md R206, R207) in the operations of bit vectors. -/

namespace Sys2Proof.Machine

/-! ## Shifted double words -/

section DoubleWords

variable (v : Word) (n : Nat)

/-- The word over a zero word, as an unsigned number. -/
theorem toNat_append_zero : (v ++ (0 : Word)).toNat = v.toNat * 65536 := by
  rw [BitVec.toNat_append, Nat.shiftLeft_eq]
  exact Nat.or_zero _

/-- The word over a zero word, as a signed number. -/
theorem toInt_append_zero : (v ++ (0 : Word)).toInt = signed v * 65536 := by
  rw [BitVec.toInt_append, if_neg (by decide), Int.mul_comm]
  exact Int.add_zero _

theorem append_zero_ushiftRight_low :
    ((v ++ (0 : Word)) >>> n).extractLsb' 0 16 = trunc16Nat ((v.toNat * 65536) >>> n) := by
  have hshift : (v ++ (0 : Word)) >>> n = BitVec.ofNat 32 ((v.toNat * 65536) >>> n) := by
    rw [← toNat_append_zero, ← BitVec.toNat_ushiftRight, BitVec.ofNat_toNat, BitVec.setWidth_eq]
  rw [hshift, extractLsb'_ofNat (by decide), Nat.shiftRight_zero]
  rfl

theorem append_zero_sshiftRight_low :
    ((v ++ (0 : Word)).sshiftRight n).extractLsb' 0 16 = trunc16 ((signed v * 65536) >>> n) := by
  rw [BitVec.sshiftRight_eq, toInt_append_zero, extractLsb'_ofInt (by decide), Int.shiftRight_zero]
  rfl

theorem zeroExtend_shiftLeft_high :
    (v.zeroExtend 32 <<< n).extractLsb' 16 16 = trunc16Nat ((v.toNat <<< n) >>> 16) := by
  rw [← BitVec.shiftLeft_eq, BitVec.shiftLeft, extractLsb'_ofNat (by decide), BitVec.toNat_setWidth_of_le (by decide)]
  rfl

end DoubleWords

/-! ## Results and EX -/

section MoreOutputs

variable (ex vb va : Word)

/-- Only -32768 / -1 leaves the range of a word, and narrowing wraps it as the signed division of words does. -/
theorem trunc16_tdiv : trunc16 ((signed vb).tdiv (signed va)) = vb.sdiv va := by
  rw [← BitVec.toInt_inj, trunc16, BitVec.toInt_ofInt, BitVec.toInt_sdiv]
  rfl

theorem dviOut_eq : dviOut ex vb va = (if va = 0 then 0 else vb.sdiv va,
    some (if va = 0 then 0 else BitVec.ofInt 16 ((vb.toInt * 65536).tdiv va.toInt))) := by
  rw [dviOut, trunc16_tdiv]
  split <;> rfl

theorem modOut_eq : modOut ex vb va = (if va = 0 then 0 else vb % va, none) := by
  rw [modOut, ← Nat.mod_eq_sub, BitVec.umod_def]
  split <;> rfl

theorem mdiOut_eq : mdiOut ex vb va = (if va = 0 then 0 else vb.srem va, none) := by
  have hrem : trunc16 ((signed vb).tmod (signed va)) = vb.srem va := by
    rw [signed, signed, ← BitVec.toInt_srem, trunc16, BitVec.ofInt_toInt]
  rw [mdiOut, hrem]
  split <;> rfl

theorem shrOut_eq : shrOut ex vb va =
    (vb >>> va.toNat, some (((vb ++ (0 : Word)) >>> va.toNat).extractLsb' 0 16)) := by
  rw [append_zero_ushiftRight_low, shrOut, ← BitVec.toNat_ushiftRight, trunc16Nat_toNat]

theorem asrOut_eq : asrOut ex vb va =
    (vb.sshiftRight va.toNat, some (((vb ++ (0 : Word)).sshiftRight va.toNat).extractLsb' 0 16)) := by
  rw [append_zero_sshiftRight_low]
  rfl

theorem shlOut_eq : shlOut ex vb va =
    (vb <<< va.toNat, some ((vb.zeroExtend 32 <<< va.toNat).extractLsb' 16 16)) := by
  rw [zeroExtend_shiftLeft_high]
  rfl

theorem adxOut_eq : adxOut ex vb va =
    (vb + va + ex, some (if vb.toNat + va.toNat + ex.toNat > 0xffff then 0x0001 else 0x0000)) := by
  simp only [adxOut, trunc16Nat_add, trunc16Nat_toNat]

/-- The signed tests of the exact result, with the difference brought to the other side. -/
theorem sbxOut_eq : sbxOut ex vb va = (vb - va + ex, some (if vb.toNat + ex.toNat < va.toNat then 0xffff
    else if vb.toNat + ex.toNat > 0xffff + va.toNat then 0x0001 else 0x0000)) := by
  have hunder : (vb.toNat : Int) - va.toNat + ex.toNat < 0 ↔ vb.toNat + ex.toNat < va.toNat := by omega
  have hover : (vb.toNat : Int) - va.toNat + ex.toNat > 0xffff ↔ vb.toNat + ex.toNat > 0xffff + va.toNat := by omega
  have hsum : trunc16 ((vb.toNat : Int) - va.toNat + ex.toNat) = vb - va + ex := by
    rw [trunc16, BitVec.ofInt_add, ← trunc16, trunc16_sub, BitVec.ofInt_natCast, BitVec.ofNat_toNat, BitVec.setWidth_eq]
  simp only [sbxOut, hsum, hunder, hover]

end MoreOutputs

/-! ## The meanings as shapes -/

section ArithmeticArms

variable (b : BOperand) (a : AOperand) (s : State)

theorem exec_dvi : exec (.dvi b a) s = readModifyWrite 3 dviOut b a s := rfl
theorem exec_mod : exec (.mod b a) s = readModifyWrite 3 modOut b a s := rfl
theorem exec_mdi : exec (.mdi b a) s = readModifyWrite 3 mdiOut b a s := rfl
theorem exec_shr : exec (.shr b a) s = readModifyWrite 1 shrOut b a s := rfl
theorem exec_asr : exec (.asr b a) s = readModifyWrite 1 asrOut b a s := rfl
theorem exec_shl : exec (.shl b a) s = readModifyWrite 1 shlOut b a s := rfl
theorem exec_adx : exec (.adx b a) s = readModifyWrite 3 adxOut b a s := rfl
theorem exec_sbx : exec (.sbx b a) s = readModifyWrite 3 sbxOut b a s := rfl

end ArithmeticArms

/-! ## The obligations -/

/-- Settles O27: both quotients round towards 0, the second of b with 16 fractional bits. -/
theorem dviResult : Obligations.DviResult :=
  fun _ _ _ => ⟨rfl, fun ha => readModifyWrite_setsB (exec_dvi ..) ha (dviOut_eq ..)⟩

/-- Settles O28: the unsigned and the signed remainder of words, with no new EX. -/
theorem remainderResults : Obligations.RemainderResults :=
  fun _ _ _ => ⟨rfl, rfl, fun ha => ⟨readModifyWrite_setsB (exec_mod ..) ha (modOut_eq ..),
    readModifyWrite_setsB (exec_mdi ..) ha (mdiOut_eq ..)⟩⟩

/-- Settles O30: the low word of b over a zero word, shifted by the same amount, is EX. -/
theorem shrResult : Obligations.ShrResult :=
  fun _ _ _ => ⟨rfl, fun ha => readModifyWrite_setsB (exec_shr ..) ha (shrOut_eq ..)⟩

/-- Settles O31: as SHR, with the sign filled in. -/
theorem asrResult : Obligations.AsrResult :=
  fun _ _ _ => ⟨rfl, fun ha => readModifyWrite_setsB (exec_asr ..) ha (asrOut_eq ..)⟩

/-- Settles O32: EX is the high word of b shifted in 32 bits. -/
theorem shlResult : Obligations.ShlResult :=
  fun _ _ _ => ⟨rfl, fun ha => readModifyWrite_setsB (exec_shl ..) ha (shlOut_eq ..)⟩

/-- Settles O33: the sums as words, with EX by the exact result. -/
theorem carryResults : Obligations.CarryResults :=
  fun _ _ _ => ⟨rfl, rfl, fun ha => ⟨readModifyWrite_setsB (exec_adx ..) ha (adxOut_eq ..),
    readModifyWrite_setsB (exec_sbx ..) ha (sbxOut_eq ..)⟩⟩

end Sys2Proof.Machine
end

section
/-! The meanings of the other instructions as shapes (spec/43_conditionals.md R190, spec/45_jsr.md R215,
spec/60_exceptions.md R286), so that no later proof looks into `exec`. -/

namespace Sys2Proof.Machine

section SpecialArms

variable (b : BOperand) (a : AOperand) (s : State)

theorem exec_ifb : exec (.ifb b a) s = conditional ifbCond b a s := rfl
theorem exec_ifc : exec (.ifc b a) s = conditional ifcCond b a s := rfl
theorem exec_ife : exec (.ife b a) s = conditional ifeCond b a s := rfl
theorem exec_ifn : exec (.ifn b a) s = conditional ifnCond b a s := rfl
theorem exec_ifg : exec (.ifg b a) s = conditional ifgCond b a s := rfl
theorem exec_ifa : exec (.ifa b a) s = conditional ifaCond b a s := rfl
theorem exec_ifl : exec (.ifl b a) s = conditional iflCond b a s := rfl
theorem exec_ifu : exec (.ifu b a) s = conditional ifuCond b a s := rfl

theorem exec_jsr : exec (.jsr a) s =
    withValue a s fun va u => do let t ← push u.pc u; return complete 3 (t.setPc va) := rfl
theorem exec_int : exec (.int a) s = withValue a s fun va u => .ok (triggerSoft va (u.addCycles 4)) := rfl
theorem exec_mbg : exec (.mbg a) s = setOperand 1 (fun t => t.mb.setWidth 16) id a s := rfl
theorem exec_iag : exec (.iag a) s = setOperand 1 State.ia id a s := rfl
theorem exec_grm : exec (.grm a) s = setOperand 2 State.rm id a s := rfl
theorem exec_drm : exec (.drm a) s = setOperand 2 State.rm (fun t => t.setRm 1) a s := rfl

theorem exec_mbo : exec (.mbo a) s = kernelOnly (specialLength a) s (withValue a s fun va u =>
    .ok (complete (mboCycles va u.mb) ((u.setMb (mboSelect va)).setMem (mboCopy va u.mem)))) := rfl
theorem exec_ias : exec (.ias a) s =
    kernelOnly (specialLength a) s (withValue a s fun va u => .ok (complete 1 (u.setIa va))) := rfl
theorem exec_rfi : exec (.rfi a) s = kernelOnly (specialLength a) s
    (withValue a s fun _ u => do let t ← returnFromInterrupt u; return complete 3 t) := rfl
theorem exec_iaq : exec (.iaq a) s =
    kernelOnly (specialLength a) s (withValue a s fun va u => .ok (complete 2 (u.setIq (va != 0)))) := rfl
theorem exec_hwn : exec (.hwn a) s = kernelOnly (specialLength a) s (setOperand 2 State.deviceCount id a s) := rfl
theorem exec_hwq : exec (.hwq a) s =
    kernelOnly (specialLength a) s (withValue a s fun va u => .ok (complete 4 (queryDevice va u))) := rfl
theorem exec_hwi : exec (.hwi a) s =
    kernelOnly (specialLength a) s (withValue a s fun va u => .ok (sendHwi va u)) := rfl
theorem exec_srt : exec (.srt a) s =
    kernelOnly (specialLength a) s (withValue a s fun va u => .ok (complete 4 (compileTables va u))) := rfl

end SpecialArms

/-- Settles O7: each of the 22 opcodes has the meaning that stops. -/
theorem unassignedOpcodesStop : Obligations.UnassignedOpcodesStop := by
  intro b a s
  simp only [List.forall_mem_cons, List.not_mem_nil, false_implies, implies_true, and_true]
  exact ⟨rfl, rfl, rfl, rfl, rfl, rfl, rfl, rfl, rfl, rfl, rfl, rfl, rfl, rfl, rfl, rfl, rfl, rfl, rfl, rfl, rfl, rfl⟩

/-! ## Privileged instructions in user mode (60_exceptions.md R286, R291) -/

section PrivilegedUser

variable {s : State} (a : AOperand)

/-- In user mode the eight never come to their operand. -/
theorem exec_privileged_user (hu : s.rm ≠ 0) :
    ∀ i ∈ [Instr.hwi a, .hwn a, .hwq a, .iaq a, .ias a, .rfi a, .srt a, .mbo a],
      exec i s = raiseGpf .ins (s.pcAfterA a) (s.addCycles 1) := by
  have hdenied : ∀ body, kernelOnly (specialLength a) s body = raiseGpf .ins (s.pcAfterA a) (s.addCycles 1) :=
    kernelOnly_user (State.userMode_iff.2 hu) (specialLength a)
  simp only [List.forall_mem_cons, List.not_mem_nil, false_implies, implies_true, and_true]
  exact ⟨(exec_hwi a s).trans (hdenied _), (exec_hwn a s).trans (hdenied _), (exec_hwq a s).trans (hdenied _),
    (exec_iaq a s).trans (hdenied _), (exec_ias a s).trans (hdenied _), (exec_rfi a s).trans (hdenied _),
    (exec_srt a s).trans (hdenied _), (exec_mbo a s).trans (hdenied _)⟩

end PrivilegedUser

/-- Settles O18: the GPF comes before the operand, and the list names exactly these eight constructors. -/
theorem privilegedInUserMode : Obligations.PrivilegedInUserMode := by
  refine fun a s hu => ⟨exec_privileged_user a hu, fun i => ⟨fun hi => ?_, ?_⟩⟩
  · cases i <;> simp [Instr.privileged] at hi ⊢
  · rintro ⟨c, hc⟩
    simp only [List.mem_cons, List.not_mem_nil, or_false] at hc
    obtain rfl | rfl | rfl | rfl | rfl | rfl | rfl | rfl := hc
    all_goals rfl

/-! ## Denied accesses (60_exceptions.md R292, R293) -/

section Denied

variable {s : State} {b : BOperand} {a : AOperand}

/-- A denied first word: pc is one past it, and its check is paid. -/
theorem instructionPhase_denied (h : s.permits .execute s.pc = false) :
    instructionPhase s = raiseGpf .mem (s.pc + 1) (s.addCycles 1) := by
  have hu : s.userMode = true := State.userMode_of_denied (by rw [h]; exact Bool.false_ne_true)
  rw [instructionPhase, if_neg (by simp [h]), State.consult_cycles_eq, State.checkCycles_user hu]

theorem readModifyWrite_denied (h : s.allowsReadModifyWrite b a = false) (cost : Nat)
    (f : Word → Word → Word → Word × Option Word) : readModifyWrite cost f b a s =
      raiseGpf .mem (s.pcAfterAB b a) (s.addCycles (s.userCycles (s.readModifyWriteAccesses b a))) := by
  rw [readModifyWrite_eq, if_neg (by simp [h])]
  rfl

theorem moveThen_denied (h : s.allowsMove b a = false) (cost : Nat) {after : State → State}
    (hafter : ∀ t n, after (State.addCycles t n) = (after t).addCycles n) : moveThen cost after b a s =
      raiseGpf .mem (s.pcAfterAB b a) (s.addCycles (s.userCycles (s.moveAccesses b a))) := by
  rw [moveThen_eq b a s cost after hafter, if_neg (by simp [h])]
  rfl

theorem conditional_denied (h : s.allowsCompare b a = false) (cond : Word → Word → Bool) : conditional cond b a s =
    raiseGpf .mem (s.pcAfterAB b a) (s.addCycles (s.userCycles (s.compareAccesses b a))) := by
  rw [conditional_eq, if_neg (by simp [h])]
  rfl

theorem withValue_denied (h : s.allowsSource a = false) (act : Word → State → Attempt Result) : withValue a s act =
    raiseGpf .mem (s.pcAfterA a) (s.addCycles (s.userCycles (s.sourceAccesses a))) := by
  rw [withValue_eq, if_neg (by simp [h])]
  rfl

theorem setOperand_denied (h : s.allowsTarget a = false) (cost : Nat) {value : State → Word} {after : State → State}
    (hvalue : ∀ (t : State) n, value (t.addCycles n) = value t)
    (hafter : ∀ (t : State) n, after (t.addCycles n) = (after t).addCycles n) : setOperand cost value after a s =
      raiseGpf .mem (s.pcAfterA a) (s.addCycles (s.userCycles (s.targetAccesses a))) := by
  rw [setOperand_eq a s cost value after hvalue hafter, if_neg (by simp [h])]
  rfl

/-- The four special instructions that set a, when they may not. -/
theorem exec_target_denied (h : s.allowsTarget a = false) : ∀ i ∈ [Instr.mbg a, .iag a, .grm a, .drm a],
    exec i s = raiseGpf .mem (s.pcAfterA a) (s.addCycles (s.userCycles (s.targetAccesses a))) := by
  simp only [List.forall_mem_cons, List.not_mem_nil, false_implies, implies_true, and_true]
  exact ⟨(exec_mbg a s).trans (setOperand_denied h 1 (fun _ _ => rfl) fun _ _ => rfl),
    (exec_iag a s).trans (setOperand_denied h 1 (fun _ _ => rfl) fun _ _ => rfl),
    (exec_grm a s).trans (setOperand_denied h 2 (fun _ _ => rfl) fun _ _ => rfl),
    (exec_drm a s).trans (setOperand_denied h 2 (fun _ _ => rfl) fun _ _ => rfl)⟩

end Denied

/-- Settles O19: a denied first word in phase C, and one denied access for every shape of instruction. -/
theorem deniedAccessRaisesGpf : Obligations.DeniedAccessRaisesGpf := by
  intro b a s
  refine ⟨fun h => ⟨instructionPhase_denied h, fun hq => (step_of_quiet hq).trans (instructionPhase_denied h)⟩,
    fun t u hf hA hB h => (step_of_phases hf hA hB).trans (instructionPhase_denied h), fun h => ?readModifyWrite,
    fun h => ?move, fun h => ?compare, fun h => ?source, exec_target_denied⟩
  all_goals simp only [List.forall_mem_cons, List.not_mem_nil, false_implies, implies_true, and_true]
  case readModifyWrite =>
    have hd {i cost f} (hi : exec i s = readModifyWrite cost f b a s) := hi.trans (readModifyWrite_denied h cost f)
    exact ⟨hd (exec_add ..), hd (exec_sub ..), hd (exec_mul ..), hd (exec_mli ..), hd (exec_div ..), hd (exec_dvi ..),
      hd (exec_mod ..), hd (exec_mdi ..), hd (exec_and ..), hd (exec_bor ..), hd (exec_xor ..), hd (exec_shr ..),
      hd (exec_asr ..), hd (exec_shl ..), hd (exec_adx ..), hd (exec_sbx ..)⟩
  case move =>
    exact ⟨(exec_set ..).trans (moveThen_denied h 1 fun _ _ => rfl),
      (exec_sti ..).trans (moveThen_denied h 2 fun t n => t.stepIJ_addCycles n _),
      (exec_std ..).trans (moveThen_denied h 2 fun t n => t.stepIJ_addCycles n _)⟩
  case compare =>
    have hd {i cond} (hi : exec i s = conditional cond b a s) := hi.trans (conditional_denied h cond)
    exact ⟨hd (exec_ifb ..), hd (exec_ifc ..), hd (exec_ife ..), hd (exec_ifn ..), hd (exec_ifg ..), hd (exec_ifa ..),
      hd (exec_ifl ..), hd (exec_ifu ..)⟩
  case source =>
    exact ⟨(exec_jsr ..).trans (withValue_denied h _), (exec_int ..).trans (withValue_denied h _)⟩

end Sys2Proof.Machine
end

section
/-! The obligations of the conditionals (spec/43_conditionals.md R190 to R204): a test that passes, a failed one that
skips a chain, meets a first word it may not fetch, or never comes to an end. -/

namespace Sys2Proof.Machine

/-! ## The eight conditions -/

section Conditions

variable {b : BOperand} {a : AOperand} {vb va : Word}

/-- Each conditional has the shape of R190, and its test is the condition of the statement. -/
theorem conditionals_cond : ∀ p ∈ conditionals b a vb va,
    ∃ cond : Word → Word → Bool, (∀ s, exec p.1 s = conditional cond b a s) ∧ (cond vb va = true ↔ p.2) := by
  simp only [conditionals, List.forall_mem_cons, List.not_mem_nil, false_implies, implies_true, and_true]
  exact ⟨⟨ifbCond, exec_ifb b a, bne_iff_ne⟩, ⟨ifcCond, exec_ifc b a, beq_iff_eq⟩, ⟨ifeCond, exec_ife b a, beq_iff_eq⟩,
    ⟨ifnCond, exec_ifn b a, bne_iff_ne⟩, ⟨ifgCond, exec_ifg b a, decide_eq_true_iff⟩,
    ⟨ifaCond, exec_ifa b a, decide_eq_true_iff⟩, ⟨iflCond, exec_ifl b a, decide_eq_true_iff⟩,
    ⟨ifuCond, exec_ifu b a, decide_eq_true_iff⟩⟩

theorem conditionalOpcodes_firstWord : ∀ p ∈ conditionalOpcodes b a, p.1.firstWord = a.field ++ b.field ++ p.2 := by
  simp only [conditionalOpcodes, List.forall_mem_cons, List.not_mem_nil, false_implies, implies_true, and_true]
  exact ⟨rfl, rfl, rfl, rfl, rfl, rfl, rfl, rfl⟩

end Conditions

/-! ## Deciding a test -/

section Decide

variable {u : State} {n : Nat}

theorem decideSkip_passes (u : State) : decideSkip true u = .ok (.next (u.addCycles 2)) := rfl

/-- A failed test before a chain that ends is past it, for 2 cycles and those of the chain. -/
theorem decideSkip_chain (h : u.skipChainAt n u.pc) : decideSkip false u =
    .ok (.next ((u.setPc (u.afterInstrs (n + 1) u.pc)).addCycles (n + 1 + u.checkCycles (n + 1) + 2))) := by
  simp only [decideSkip, Bool.false_eq_true, if_false, skipChain_chain n _ u (State.skipChainAt_lt h) h, bind,
    Except.bind, complete, State.addCycles_addCycles]
  rfl

/-- A first word of the chain that may not be fetched differs from all before it, so the model comes to it. -/
theorem decideSkip_denied
    (h : ∀ m, m < n → u.permits .execute (u.afterInstrs m u.pc) = true ∧ u.conditionalAt (u.afterInstrs m u.pc) = true)
    (hd : u.permits .execute (u.afterInstrs n u.pc) = false) : decideSkip false u =
      .error { gpf := .mem, resume := some (u.afterInstrs n u.pc + 1), cycles := u.cycles + (2 * n + 1) } := by
  have hn : n < skipLimit := u.afterInstrs_lt u.pc n fun m hm he => by
    have hp := (h m hm).1
    rw [he, hd] at hp
    cases hp
  simp only [decideSkip, Bool.false_eq_true, if_false, skipChain_denied hn h hd, bind, Except.bind]

/-- A chain of conditionals only uses up the model's limit. -/
theorem decideSkip_endless
    (h : ∀ m, u.permits .execute (u.afterInstrs m u.pc) = true ∧ u.conditionalAt (u.afterInstrs m u.pc) = true) :
    decideSkip false u = .ok (.fault .endlessSkip) := by
  have hchain : skipChain skipLimit u = .ok none := skipChain_conditionals skipLimit 0 u fun m _ => h m
  simp only [decideSkip, Bool.false_eq_true, if_false, hchain, bind, Except.bind]
  rfl

end Decide

/-! ## A conditional whose accesses are allowed -/

section Allowed

variable {s : State} {b : BOperand} {a : AOperand} {cond : Word → Word → Bool} {n : Nat}

/-- The cycles of a conditional's words and checks. -/
def State.compareCycles (s : State) (b : BOperand) (a : AOperand) : Nat :=
  a.words + b.words + s.checkCycles (1 + a.words + b.words + (s.locA a).accesses + (s.locB b a).accesses)

theorem State.compareCycles_kernel (h : s.userMode = false) : s.compareCycles b a = a.words + b.words := by
  rw [State.compareCycles, State.checkCycles_kernel h, Nat.add_zero]

theorem State.compareCycles_user (hu : s.userMode = true) (ha : s.allowsCompare b a = true) :
    s.compareCycles b a = s.userCycles (s.compareAccesses b a) := by
  rw [State.compareCycles, State.checkCycles_user hu, State.userCycles_compare ha]

theorem conditional_allowed (ha : s.allowsCompare b a = true) : conditional cond b a s =
    settle (basicLength b a) s (decideSkip (cond (s.valueB b a) (s.valueA a))
      (((s.setPc (s.pcAfterAB b a)).setSp (s.spAfterAB b a)).addCycles (s.compareCycles b a))) := by
  rw [conditional_eq, if_pos ha, State.afterAB_eq, State.compareCycles]

theorem conditional_passes (ha : s.allowsCompare b a = true) (hc : cond (s.valueB b a) (s.valueA a) = true) :
    conditional cond b a s =
      .next (((s.setPc (s.pcAfterAB b a)).setSp (s.spAfterAB b a)).addCycles (s.compareCycles b a + 2)) := by
  rw [conditional_allowed ha, hc, decideSkip_passes, State.addCycles_addCycles]
  rfl

/-! The chain is read where the operands leave it: only pc, SP and the cycle counter have moved. -/

theorem State.skipChainAt_moved (s : State) (pc sp : Word) (c n : Nat) :
    ∀ addr : Word, (((s.setPc pc).setSp sp).addCycles c).skipChainAt n addr ↔ s.skipChainAt n addr := by
  induction n with
  | zero => exact fun _ => Iff.rfl
  | succ n ih => exact fun addr => and_congr Iff.rfl (and_congr Iff.rfl (ih _))

theorem State.afterInstrs_moved (s : State) (pc sp : Word) (c n : Nat) :
    ∀ addr : Word, (((s.setPc pc).setSp sp).addCycles c).afterInstrs n addr = s.afterInstrs n addr := by
  induction n with
  | zero => exact fun _ => rfl
  | succ n ih => exact fun addr => ih _

theorem conditional_skips (ha : s.allowsCompare b a = true) (hc : cond (s.valueB b a) (s.valueA a) = false)
    (h : s.skipChainAt n (s.pcAfterAB b a)) : conditional cond b a s =
      .next (((s.setPc (s.afterInstrs (n + 1) (s.pcAfterAB b a))).setSp (s.spAfterAB b a)).addCycles
        (s.compareCycles b a + (n + 1 + s.checkCycles (n + 1) + 2))) := by
  rw [conditional_allowed ha, hc, decideSkip_chain (n := n) (by rw [State.skipChainAt_moved]; exact h),
    State.afterInstrs_moved]
  simp only [settle, State.addCycles_setPc, State.setSp_setPc, State.setPc_setPc, State.addCycles_addCycles]
  rfl

end Allowed

/-! ## The obligations -/

/-- From `s` only pc, SP and the cycle counter have changed. -/
theorem State.leaves_moved (s : State) (pc sp : Word) (n : Nat) :
    s.Leaves (((s.setPc pc).setSp sp).addCycles n) pc sp (.lit 0) 0 none :=
  (s.leaves_store pc sp (.lit 0) 0 none).addCycles n

/-- Settles O35: a test that passes ends the instruction. -/
theorem testPasses : Obligations.TestPasses := by
  refine fun b a s => ⟨conditionalOpcodes_firstWord, fun ha p hp hholds => ?_⟩
  obtain ⟨cond, hexec, hcond⟩ := conditionals_cond p hp
  exact ⟨_, (hexec s).trans (conditional_passes ha (hcond.2 hholds)), s.leaves_moved _ _ _⟩

/-- Settles O36: the chain is passed by the lengths of its first words alone. -/
theorem testFailsSkips : Obligations.TestFailsSkips := by
  refine fun b a s n => ⟨conditionalOpcodes_firstWord, fun ha hchain p hp hfails => ?_⟩
  obtain ⟨cond, hexec, hcond⟩ := conditionals_cond p hp
  have hc := Bool.eq_false_iff.2 (mt hcond.1 hfails)
  exact ⟨_, (hexec s).trans (conditional_skips ha hc hchain), s.leaves_moved _ _ _⟩

/-- Settles O37: the denial of the chain leaves pc at its own word, and keeps the cycles of those before. -/
theorem deniedSkipRaisesGpf : Obligations.DeniedSkipRaisesGpf := by
  intro b a s n ha hchain hdenied p hp hfails
  obtain ⟨cond, hexec, hcond⟩ := conditionals_cond p hp
  have hu : s.userMode = true := State.userMode_of_denied (by rw [hdenied]; exact Bool.false_ne_true)
  rw [hexec s, conditional_allowed ha, Bool.eq_false_iff.2 (mt hcond.1 hfails), State.compareCycles_user hu ha,
    decideSkip_denied (n := n)]
  · rw [State.afterInstrs_moved, State.addCycles_cycles, Nat.add_assoc]
    rfl
  · exact fun m hm => by rw [State.afterInstrs_moved]; exact hchain m hm
  · rw [State.afterInstrs_moved]
    exact hdenied

/-- Settles O38: around the bank the chain has no end. -/
theorem endlessSkipStops : Obligations.EndlessSkipStops := by
  intro b a s ha hchain p hp hfails
  obtain ⟨cond, hexec, hcond⟩ := conditionals_cond p hp
  rw [hexec s, conditional_allowed ha, Bool.eq_false_iff.2 (mt hcond.1 hfails), decideSkip_endless]
  · rfl
  · exact fun m => by rw [State.afterInstrs_moved]; exact hchain m

end Sys2Proof.Machine
end

section
/-! The obligations of the special instructions of both modes (spec/45_jsr.md, spec/46_banks.md R221,
spec/47_interrupt_instr.md R231 and R233, spec/49_ring_instr.md R256 and R257): JSR, INT, and the instructions that set
their operand. -/

namespace Sys2Proof.Machine

section SpecialShapes

variable {s : State} {a : AOperand}

/-- The cycles of a special instruction's words and checks. -/
def State.operandCycles (s : State) (a : AOperand) : Nat :=
  a.words + s.checkCycles (1 + a.words + (s.locA a).accesses)

theorem State.operandCycles_kernel (h : s.userMode = false) : s.operandCycles a = a.words := by
  rw [State.operandCycles, State.checkCycles_kernel h, Nat.add_zero]

theorem State.operandCycles_source (hu : s.userMode = true) (ha : s.allowsSource a = true) :
    s.operandCycles a = s.userCycles (s.sourceAccesses a) := by
  rw [State.operandCycles, State.checkCycles_user hu, State.userCycles_source ha]

theorem State.operandCycles_target (hu : s.userMode = true) (ha : s.allowsTarget a = true) :
    s.operandCycles a = s.userCycles (s.targetAccesses a) := by
  rw [State.operandCycles, State.checkCycles_user hu, State.userCycles_target ha]

/-- The state in which a special instruction acts: a has been read. -/
def State.readA (s : State) (a : AOperand) : State :=
  ((s.setPc (s.pcAfterA a)).setSp (s.spAfterA a)).addCycles (s.operandCycles a)

theorem withValue_reads (ha : s.allowsSource a = true) (act : Word → State → Attempt Result) :
    withValue a s act = settle (specialLength a) s (act (s.valueA a) (s.readA a)) := by
  rw [withValue_allowed ha, State.readA, State.operandCycles]

/-- Writing one location of a state that differs from `s` in pc and SP alone. -/
theorem State.leaves_write (s : State) (pc sp : Word) (l : Loc) (v : Word) (n : Nat) :
    s.Leaves ((((s.setPc pc).setSp sp).store l v).addCycles n) pc sp l v none :=
  (s.leaves_store pc sp l v none).addCycles n

/-- From a state as `s` but for what the instruction wrote, only pc and SP have moved past a. -/
theorem State.passesA_moved (s : State) (a : AOperand) (n : Nat) :
    s.PassesA (((s.setPc (s.pcAfterA a)).setSp (s.spAfterA a)).addCycles n) a :=
  s.leaves_moved _ _ n

end SpecialShapes

/-! ## JSR -/

section Jsr

variable {s : State} {a : AOperand}

/-- Reading a and the push are allowed: a cycle for the check of the push comes with those of a. -/
theorem exec_jsr_allowed (ha : s.allowsSource a = true) (hp : s.permits .write (s.spAfterA a - 1) = true) :
    exec (.jsr a) s = .next (((((s.setPc (s.valueA a)).setSp (s.spAfterA a - 1)).store (.mem (s.spAfterA a - 1))
      (s.pcAfterA a))).addCycles (s.operandCycles a + s.checkCycles 1 + 3)) := by
  have hpush : (s.readA a).permits .write ((s.readA a).sp - 1) = true := hp
  rw [exec_jsr, withValue_reads ha, push_eq, if_pos hpush, ← State.addCycles_addCycles, ← State.addCycles_addCycles]
  rfl

/-- A denied push comes after the read, whose cycles stay spent. -/
theorem exec_jsr_pushDenied (ha : s.allowsSource a = true) (hp : s.permits .write (s.spAfterA a - 1) = false) :
    exec (.jsr a) s = raiseGpf .mem (s.pcAfterA a) (s.addCycles (s.userCycles (s.jsrAccesses a))) := by
  have hpush : ¬(s.readA a).permits .write ((s.readA a).sp - 1) = true := Bool.eq_false_iff.1 hp
  have hu : s.userMode = true := State.userMode_of_denied hpush
  rw [exec_jsr, withValue_reads ha, push_eq, if_neg hpush, State.userCycles_jsr ha, ← State.userCycles_source ha,
    ← State.operandCycles_source hu ha]
  rfl

/-- Settles O39: the push goes through, or the read or the push is denied. -/
theorem jsrResult : Obligations.JsrResult := by
  refine fun a s => ⟨rfl, fun ha hp => ?completes, fun hdenied => ?denied⟩
  case completes => exact ⟨_, exec_jsr_allowed ha hp, s.leaves_write ..⟩
  case denied =>
    by_cases ha : s.allowsSource a = true
    · exact exec_jsr_pushDenied ha (hdenied.resolve_left (by simp [ha]))
    · rw [exec_jsr, withValue_denied (Bool.eq_false_iff.2 ha), State.userCycles_jsr_denied ha]

end Jsr

/-! ## INT -/

section Int

variable {s : State} {a : AOperand}

/-- INT triggers its message once it has read a. -/
theorem exec_int_allowed (ha : s.allowsSource a = true) : exec (.int a) s = triggerSoft (s.valueA a)
    ((s.readA a).addCycles 4) := by
  rw [exec_int, withValue_reads ha, settle]

theorem State.EntersHandler.of_addCycles {t : State} {m : Word} {c : Nat} (h : (s.addCycles c).EntersHandler t m) :
    s.EntersHandler t m := State.EntersHandler.counters (c := c) (n := 0) h

/-- Settles O43: the five cases of a software interrupt, in the state past the instruction. -/
theorem intResult : Obligations.IntResult := by
  refine fun a s => ⟨rfl, fun ha => ?_, fun hd => (exec_int a s).trans (withValue_denied hd _)⟩
  rw [exec_int_allowed ha]
  refine ⟨fun hq hl => ?queued, fun hq hl => ?onFire, fun hq hi => ?dropped, fun hq hi hf => ?entered,
    fun hq hi hf => ?denied⟩
  case queued =>
    exact ⟨_, triggerSoft_queued _ hq hl,
      (s.setQueue (s.queue ++ [s.valueA a])).passesA_moved a (s.operandCycles a + 4)⟩
  case onFire => exact triggerSoft_onFire _ hq hl
  case dropped => exact ⟨_, triggerSoft_dropped _ hq hi, s.passesA_moved a (s.operandCycles a + 4)⟩
  case entered =>
    have henters := State.entered_enters ((s.readA a).addCycles 4) (s.valueA a)
    exact ⟨_, triggerSoft_entered _ hq hi hf, (henters _).of_addCycles.of_addCycles⟩
  case denied => exact triggerSoft_doubleFault _ hq hi hf

end Int

/-! ## MBG, IAG, GRM and DRM -/

/-- Settles O40: each sets its operand to a register that evaluating the operand has not changed. -/
theorem controlRegisterReads : Obligations.ControlRegisterReads := by
  refine fun a s => ⟨rfl, rfl, rfl, fun ha => ⟨?mbg, ?iag, ?grm⟩, fun hd i hi => ?denied⟩
  case mbg => exact setOperand_completes s a 1 (fun t => t.mb.setWidth 16) (fun _ _ => rfl) ha
  case iag => exact setOperand_completes s a 1 State.ia (fun _ _ => rfl) ha
  case grm => exact setOperand_completes s a 2 State.rm (fun _ _ => rfl) ha
  case denied => exact exec_target_denied hd i (List.mem_of_mem_take (i := 3) hi)

theorem State.store_setRm (s : State) (l : Loc) (v r : Word) : (s.store l v).setRm r = (s.setRm r).store l v := by
  cases l <;> rfl

/-- What DRM does when the write of a is allowed: the write sees the old ring mode, the frame does not show it. -/
theorem exec_drm_allowed {s : State} {a : AOperand} (ha : s.allowsTarget a = true) : exec (.drm a) s =
    .next (((((s.setRm 1).setPc (s.pcAfterA a)).setSp (s.spAfterA a)).store (s.locA a) s.rm).addCycles
      (2 + s.operandCycles a)) := by
  rw [exec_drm, setOperand_eq a s 2 State.rm _ (fun _ _ => rfl) (fun _ _ => rfl), if_pos ha, State.store_setRm,
    State.afterA_eq, State.operandCycles, Nat.add_assoc]
  rfl

/-- Settles O41: RM is written last, so a holds the old one. -/
theorem drmResult : Obligations.DrmResult :=
  fun a s => ⟨rfl, fun ha => ⟨_, exec_drm_allowed ha, (s.setRm 1).leaves_write ..⟩,
    fun hd => exec_target_denied hd _ (by simp)⟩

end Sys2Proof.Machine
end

section
/-! The obligations of the privileged instructions (spec/46_banks.md R222, spec/47_interrupt_instr.md R234 to R238,
spec/48_hardware_instr.md, spec/49_ring_instr.md R258) but SRT: in kernel mode the operand is read, then the instruction
acts. -/

namespace Sys2Proof.Machine

section KernelMode

variable {s : State} {a : AOperand}

/-- In kernel mode a privileged instruction reads its operand and acts. -/
theorem privileged_kernel (hk : s.rm = 0) (act : Word → State → Result) :
    kernelOnly (specialLength a) s (withValue a s fun va u => .ok (act va u)) =
      act (s.valueA a) (s.readA a) := by
  have hm : s.userMode = false := State.userMode_eq_false_iff.2 hk
  rw [kernelOnly_kernel hm, withValue_reads (s.allowsSource_kernel a hm), settle]

end KernelMode

/-! ## IAS and IAQ -/

/-- Settles O44: the one field each of them sets. -/
theorem interruptControl : Obligations.InterruptControl := by
  refine fun a s => ⟨rfl, rfl, fun hk => ⟨?ias, ?iaq⟩, fun hu => ?user⟩
  case ias =>
    exact ⟨_, (exec_ias a s).trans (privileged_kernel hk _),
      (s.setIa (s.valueA a)).passesA_moved a (s.operandCycles a + 1)⟩
  case iaq =>
    have hne : (s.valueA a != 0) = decide (s.valueA a ≠ 0) :=
      Bool.eq_iff_iff.2 (bne_iff_ne.trans decide_eq_true_iff.symm)
    rw [← hne]
    exact ⟨_, (exec_iaq a s).trans (privileged_kernel hk _),
      (s.setIq (s.valueA a != 0)).passesA_moved a (s.operandCycles a + 2)⟩
  case user =>
    have hu' := exec_privileged_user a hu
    simp only [List.forall_mem_cons, List.not_mem_nil, false_implies, implies_true, and_true] at hu' ⊢
    obtain ⟨_, _, _, hiaq, hias, _⟩ := hu'
    exact ⟨hias, hiaq⟩

/-! ## MBO -/

section Mbo

variable (va w : Word)

theorem mboBase_eq : mboBase va = (va >>> 9) <<< 9 := by
  apply BitVec.eq_of_getLsbD_eq
  intro i hi
  interval_cases i <;> simp [mboBase]

theorem mboBase_toNat : (mboBase va).toNat = va.toNat / 512 * 512 := by
  rw [mboBase_eq, BitVec.toNat_shiftLeft, BitVec.toNat_ushiftRight, Nat.shiftRight_eq_div_pow, Nat.shiftLeft_eq]
  omega

theorem extractLsb'_block : w.extractLsb' 9 7 = va.extractLsb' 9 7 ↔ w.toNat / 512 = va.toNat / 512 := by
  rw [← BitVec.toNat_inj, BitVec.extractLsb'_toNat, BitVec.extractLsb'_toNat, Nat.shiftRight_eq_div_pow,
    Nat.shiftRight_eq_div_pow]
  omega

/-- The block of the operand: the 512 addresses whose upper seven bits are its own. -/
theorem mem_mboBlock : (mboBase va).toNat ≤ w.toNat ∧ w.toNat < (mboBase va).toNat + Config.blockWords ↔
    w.extractLsb' 9 7 = va.extractLsb' 9 7 := by
  rw [mboBase_toNat, extractLsb'_block, Config.blockWords]
  omega

/-- Every word after the copy of MBO (R222). -/
theorem word_mboCopy (m : Memory) (k : BankNo) : (mboCopy va m).word k w =
    if mboSource va ≠ mboDest va ∧ k = mboDest va ∧ w.extractLsb' 9 7 = va.extractLsb' 9 7 then m.word (mboSource va) w
    else m.word k w := by
  have hfits : (mboBase va).toNat + Config.blockWords ≤ 65536 := by
    rw [mboBase_toNat, Config.blockWords]
    omega
  by_cases h : mboSource va = mboDest va
  · rw [mboCopy, if_pos h, if_neg (fun hc => hc.1 h)]
  · rw [mboCopy, if_neg h, Memory.word_copy _ _ _ _ _ _ _ hfits]
    simp only [mem_mboBlock, ne_eq, h, not_false_eq_true, true_and]

end Mbo

/-- Settles O42: the bank is switched and the block copied, in the state past the operand. -/
theorem mboResult : Obligations.MboResult := by
  refine fun a s => ⟨rfl, fun hk => ⟨_, (exec_mbo a s).trans (privileged_kernel hk _), rfl, fun k w => ?words, ?frame⟩,
    fun hu => exec_privileged_user a hu _ (by simp)⟩
  case words => exact word_mboCopy (s.valueA a) w s.mem k
  case frame =>
    exact State.Leaves.addCycles (((s.setMb (mboSelect (s.valueA a))).setMem
      (mboCopy (s.valueA a) s.mem)).passesA_moved a (s.operandCycles a)) _

/-! ## RFI -/

section Rfi

variable {s : State} {a : AOperand}

/-- The system state RFI leaves in kernel mode: queueing off, and RM popped once SRT has been called. -/
def State.returned (s : State) (a : AOperand) : State :=
  (s.setIq false).setRm (if s.srtCalled then s.bank s.mb (s.spAfterA a + 2) else 0)

/-- The pops of RFI are below the operand's: A, then PC, then RM. -/
theorem exec_rfi_kernel (hk : s.rm = 0) : exec (.rfi a) s =
    .next (((((s.returned a).setPc (s.bank s.mb (s.spAfterA a + 1))).setSp
      (s.spAfterA a + if s.srtCalled then 3 else 2)).store (.reg .a) (s.bank s.mb (s.spAfterA a))).addCycles
        (s.operandCycles a + 3)) := by
  have hm : s.userMode = false := State.userMode_eq_false_iff.2 hk
  have hreturn := returnFromInterrupt_kernel (s.readA a) hm
  have hframe : BitVec.ofNat 16 s.frameWords = if s.srtCalled then 3 else 2 := by
    rw [State.frameWords]
    split <;> rfl
  rw [exec_rfi, kernelOnly_kernel hm, withValue_reads (s.allowsSource_kernel a hm), hreturn, State.returned, ← hframe,
    ← hk]
  rfl

/-- Settles O45: the register A is the place written, the rest of the pops are pc, SP and RM. -/
theorem rfiResult : Obligations.RfiResult :=
  fun a s => ⟨rfl, fun hk => ⟨_, exec_rfi_kernel hk, (s.returned a).leaves_write ..⟩⟩

/-- What RFI with a literal pops from a state that entry has led to: the frame of R281, word by word. -/
theorem State.EntersHandler.pops {t : State} {m : Word} (h : s.EntersHandler t m) (hk : s.srtCalled = true ∨ s.rm = 0) :
    t.bank t.mb t.sp = s.reg .a ∧ t.bank t.mb (t.sp + 1) = s.pc ∧
      (t.sp + if t.srtCalled then 3 else 2) = s.sp ∧ (if t.srtCalled then t.bank t.mb (t.sp + 2) else 0) = s.rm := by
  rw [h.mb, h.srtCalled, h.sp]
  rcases Bool.eq_false_or_eq_true s.srtCalled with hs | hs
  · obtain ⟨hrm, hpc, ha⟩ := h.long_frame hs
    have e1 : s.sp - 3 + 1 = s.sp - 2 := by bv_omega
    have e2 : s.sp - 3 + 2 = s.sp - 1 := by bv_omega
    have e3 : s.sp - 3 + 3 = s.sp := by bv_omega
    simp only [hs, if_true, e1, e2, e3]
    exact ⟨ha, hpc, trivial, hrm⟩
  · obtain ⟨hpc, ha⟩ := h.short_frame hs
    have e1 : s.sp - 2 + 1 = s.sp - 1 := by bv_omega
    have e2 : s.sp - 2 + 2 = s.sp := by bv_omega
    simp only [hs, Bool.false_eq_true, if_false, e1, e2]
    exact ⟨ha, hpc, trivial, (hk.resolve_left (by simp [hs])).symm⟩

/-- Settles O16: RFI pops the frame that entry pushed, and neither writes anything else but queueing and RM. -/
theorem rfiInvertsEntry : Obligations.RfiInvertsEntry := by
  intro s t m v hi hk hd
  obtain ⟨hi0, _⟩ | ⟨_, _, rfl⟩ := deliver_next hd
  · exact absurd hi0 hi
  have he := s.entered_enters m (s.checkCycles s.frameWords)
  obtain ⟨ha, hpc, hsp, hrm⟩ := he.pops hk
  generalize (s.entered m).addCycles (s.checkCycles s.frameWords) = t at he ha hpc hsp hrm
  have hkernel : t.rm = 0 := by
    rw [he.rm, ite_eq_left_iff]
    exact hk.resolve_left
  obtain ⟨u, hu, hl⟩ := (rfiResult (.short v) t).2 hkernel
  refine ⟨u, hu, fun r => ?reg, hl.pc_eq.trans hpc, hl.sp_eq.trans hsp, hl.system.rm.trans hrm, hl.system.iq,
    hl.ex_eq.trans he.ex, hl.system.ia.trans he.ia, hl.system.mb.trans he.mb, hl.system.queue.trans he.queue,
    hl.system.perm.trans he.perm⟩
  case reg =>
    rw [hl.regs]
    split
    · next hr =>
      cases hr
      exact ha
    · next hr => exact he.regs r fun hra => hr (by rw [hra])

end Rfi

/-! ## HWN, HWQ and HWI -/

/-- Settles O46: the number of devices is within a word. -/
theorem hwnResult : Obligations.HwnResult := by
  refine fun a s => ⟨rfl, fun hk hlen => ?kernel, fun hu => exec_privileged_user a hu _ (by simp)⟩
  case kernel =>
    have hm : s.userMode = false := State.userMode_eq_false_iff.2 hk
    obtain ⟨t, ht, hset⟩ :=
      setOperand_completes s a 2 State.deviceCount (fun _ _ => rfl) (s.allowsTarget_kernel a hm)
    exact ⟨t, s.deviceCount, (exec_hwn a s).trans ((kernelOnly_kernel hm _ _).trans ht),
      Nat.mod_eq_of_lt (Nat.lt_succ_of_le hlen), hset⟩

section Hwq

variable {s : State}

theorem queryDevice_connected {va : Word} {d : Device} (h : s.devices[va.toNat]? = some d) : queryDevice va s =
    s.setHwqRegs (d.info.id.extractLsb' 0 16) (d.info.id.extractLsb' 16 16) d.info.version
      (d.info.manufacturer.extractLsb' 0 16) (d.info.manufacturer.extractLsb' 16 16) := by
  rw [queryDevice, h]

/-- The halves of a double word, put together again. -/
theorem append_extractLsb'_halves (v : BitVec 32) : v.extractLsb' 16 16 ++ v.extractLsb' 0 16 = v := by
  apply BitVec.eq_of_getLsbD_eq
  intro i hi
  rw [BitVec.getLsbD_append, BitVec.getLsbD_extractLsb', BitVec.getLsbD_extractLsb']
  split
  · next h => simp [h]
  · next h => simp [show i - 16 < 16 by omega, show 16 + (i - 16) = i by omega]

end Hwq

/-- Settles O47: A, B, C, X and Y are written, and free values are drawn when there is no device. -/
theorem hwqResult : Obligations.HwqResult := by
  refine fun a s => ⟨rfl, fun hk => ⟨fun d hd => ?connected, fun hlen => ?absent⟩⟩
  case connected =>
    have hexec := (exec_hwq a s).trans (privileged_kernel hk _)
    rw [queryDevice_connected (s := s.readA a) hd] at hexec
    exact ⟨_, hexec, append_extractLsb'_halves _, rfl, append_extractLsb'_halves _, rfl, rfl, rfl,
      State.leaves_moved _ _ _ (s.operandCycles a + 4)⟩
  case absent =>
    have hexec := (exec_hwq a s).trans (privileged_kernel hk _)
    obtain ⟨v1, v2, v3, v4, v5, n, hq⟩ := queryDevice_frame (s.valueA a) (s.readA a)
    rw [hq] at hexec
    exact ⟨_, hexec, rfl, rfl, rfl, State.leaves_moved _ _ _ (s.operandCycles a + 4)⟩

section Hwi

variable {s : State}

/-- A change of a device is exactly the one it names (60_exceptions.md R303, R305). -/
theorem State.deviceWrite_changed (s : State) (w : DeviceWrite) : s.Changed (s.deviceWrite w) w := by
  cases w with
  | reg r v => exact ⟨fun q => s.reg_setReg r q v, rfl⟩
  | pc v => exact rfl
  | sp v => exact rfl
  | ex v => exact rfl
  | mem bank addr v => exact ⟨fun k w => s.mem.word_setWord bank k addr w v, rfl⟩

theorem State.markHwi_connected {n : Nat} {d : Device} (h : s.devices[n]? = some d) :
    s.markHwi n = s.setDevices (s.devices.set n { d with hwiSeen := true }) := by
  rw [State.markHwi, List.modify_eq_set_getElem?, h]
  rfl

theorem sendHwi_connected {va : Word} {d : Device} (h : s.devices[va.toNat]? = some d) : sendHwi va s =
    deviceWrites d.info s.hwiAnswer.writes
      (((s.setDevices (s.devices.set va.toNat { d with hwiSeen := true })).setHwiAnswers
        s.hwiAnswers.tail).addCycles (4 + s.hwiAnswer.extraCycles)) := by
  rw [← State.markHwi_connected h, sendHwi, h]

theorem sendHwi_absent {va : Word} (h : s.devices.length ≤ va.toNat) : sendHwi va s = .fault .noSuchDevice := by
  rw [sendHwi, List.getElem?_eq_none h]

end Hwi

/-- Settles O48: the device is marked past the operand, then makes its changes, or one of them is refused. -/
theorem hwiResult : Obligations.HwiResult := by
  refine fun a s => ⟨rfl, s.deviceWrite_changed, fun hk answer hanswer => ?_⟩
  subst hanswer
  have hexec := (exec_hwi a s).trans (privileged_kernel hk _)
  refine ⟨fun d hd hreach => ?allowed, fun d hd hforbidden => ?refused, fun hlen => ?absent⟩
  case allowed =>
    have hmay : ∀ w ∈ (s.readA a).hwiAnswer.writes, d.info.mayWrite w = true :=
      fun w hw => DeviceInfo.mayWrite_iff.2 (hreach w hw)
    rw [sendHwi_connected (s := s.readA a) hd, deviceWrites_allowed hmay] at hexec
    exact ⟨_, hexec, State.Leaves.addCycles (State.leaves_moved _ _ _ (s.operandCycles a)) _⟩
  case refused =>
    obtain ⟨w, hw, hno⟩ := hforbidden
    rw [sendHwi_connected (s := s.readA a) hd,
      deviceWrites_forbidden (ws := (s.readA a).hwiAnswer.writes) ⟨w, hw, mt DeviceInfo.mayWrite_iff.1 hno⟩] at hexec
    exact hexec
  case absent => exact hexec.trans (sendHwi_absent hlen)

end Sys2Proof.Machine
end

section
/-! The obligation of memory (spec/20_memory.md R60, R63): a word is its two cells, so the words and the listed keys fix
every cell. -/

namespace Sys2Proof.Machine

/-! ## A word and its cells -/

section Cells

variable {m m' : Memory}

/-- Words that are equal have equal halves. -/
theorem Memory.byte_eq_of_word_eq {k : BankNo} {w : Word} (h : m.word k w = m'.word k w) :
    m.byte (cellKey k w) = m'.byte (cellKey k w) ∧ m.byte (cellKey k w + 1) = m'.byte (cellKey k w + 1) := by
  have hlow : (m.word k w).extractLsb' 0 8 = (m'.word k w).extractLsb' 0 8 := congrArg _ h
  have hhigh : (m.word k w).extractLsb' 8 8 = (m'.word k w).extractLsb' 8 8 := congrArg _ h
  simp only [Memory.word, BitVec.extractLsb'_append_eq_right] at hlow
  simp only [Memory.word, BitVec.extractLsb'_append_eq_left] at hhigh
  exact ⟨hlow, hhigh⟩

/-- Every key of the banks is a half of some word. -/
theorem exists_cellKey {key : Nat} (h : key < Memory.cells) :
    ∃ (k : BankNo) (w : Word), key = cellKey k w ∨ key = cellKey k w + 1 := by
  simp only [Memory.cells, Config.banks, Config.bankWords] at h
  refine ⟨BitVec.ofNat 3 (key / 131072), BitVec.ofNat 16 (key / 2 % 65536), ?_⟩
  simp only [cellKey, Config.bankWords, BitVec.toNat_ofNat]
  omega

theorem Memory.byte_eq_of_words_eq (h : ∀ (k : BankNo) (w : Word), m.word k w = m'.word k w) {key : Nat}
    (hkey : key < Memory.cells) : m.byte key = m'.byte key := by
  obtain ⟨k, w, rfl | rfl⟩ := exists_cellKey hkey
  · exact (Memory.byte_eq_of_word_eq (h k w)).1
  · exact (Memory.byte_eq_of_word_eq (h k w)).2

/-- A canonical memory lists keys of the banks only. -/
theorem Memory.lt_cells_of_listed (hwf : m.wf) {key : Nat} {v : Byte} (h : m.listed key = some v) :
    key < Memory.cells :=
  hwf.2 (key, v) ((Sparse.find_eq_some hwf.1 key v).1 h)

/-- A listed key holds its cell. -/
theorem Memory.byte_of_listed {key : Nat} {v : Byte} (h : m.listed key = some v) : m.byte key = v := by
  rw [Memory.byte_eq, h]
  rfl

/-- The same keys listed and the same words held: the same data. -/
theorem Memory.ext_words (hm : m.wf) (hm' : m'.wf) (hlisted : ∀ key, (m.listed key).isSome = (m'.listed key).isSome)
    (hwords : ∀ (k : BankNo) (w : Word), m.word k w = m'.word k w) : m = m' := by
  refine Sparse.ext hm.1 hm'.1 fun key => ?_
  change m.listed key = m'.listed key
  have hsome := hlisted key
  cases h : m.listed key with
  | none =>
    rw [h] at hsome
    exact (Option.isNone_iff_eq_none.1 (Option.isSome_eq_false_iff.1 hsome.symm)).symm
  | some v =>
    rw [h] at hsome
    obtain ⟨v', h'⟩ := Option.isSome_iff_exists.1 hsome.symm
    have hv := Memory.byte_eq_of_words_eq hwords (Memory.lt_cells_of_listed hm h)
    rw [Memory.byte_of_listed h, Memory.byte_of_listed h'] at hv
    rw [h', hv]

theorem Memory.listed_setWord {key : Nat} {k : BankNo} {w : Word} (hlow : key ≠ cellKey k w)
    (hhigh : key ≠ cellKey k w + 1) (v : Word) : (m.setWord k w v).listed key = m.listed key := by
  rw [Memory.setWord, Memory.listed_setByte, if_neg hhigh, Memory.listed_setByte, if_neg hlow]

end Cells

/-- Settles O58: cell by cell, then the laws of one write. -/
theorem memoryIsItsWords : Obligations.MemoryIsItsWords :=
  ⟨fun _ _ => Memory.ext_words, Memory.word_setWord, fun _ _ _ v _ hlow hhigh => Memory.listed_setWord hlow hhigh v⟩

end Sys2Proof.Machine
end

section
/-! The obligation of SRT (spec/20_memory.md R71 to R76, spec/49_ring_instr.md R258): the flags of a page after any
number of entries are those it had and those of the entries that cover it. -/

namespace Sys2Proof.Machine

/-! ## Entries -/

section Entries

variable {e : Word} {p : Nat}

theorem entryStart_eq (e : Word) : entryStart e = e.toNat / 256 := by
  rw [entryStart, BitVec.extractLsb'_toNat, Nat.shiftRight_eq_div_pow]
  exact Nat.mod_eq_of_lt (by omega)

theorem entryPages_eq (e : Word) : entryPages e = e.toNat / 8 % 32 := by
  rw [entryPages, BitVec.extractLsb'_toNat, Nat.shiftRight_eq_div_pow]

/-- The model's walk gives a page of the bank exactly what the entry grants (R74, R75). -/
theorem entryGrants_iff (hp : p < 256) (x : Access) :
    entryGrants e p x ↔ p ∈ entryCovers e ∧ entryFlags e &&& x.flag ≠ 0 := by
  rw [mem_entryCovers, entryStart_eq, entryPages_eq, entryGrants, entryFlags]
  constructor
  · rintro ⟨hlo, hhi, hf⟩; exact ⟨⟨hlo, hhi, hp⟩, hf⟩
  · rintro ⟨⟨hlo, hhi, _⟩, hf⟩; exact ⟨hlo, hhi, hf⟩

theorem mem_tableEntries {m : Memory} {k : BankNo} {addr : Word} {n : Nat} :
    e ∈ tableEntries m k addr n ↔ ∃ i, i < n ∧ e = m.word k (addr + BitVec.ofNat 16 i) := by
  simp only [tableEntries, List.mem_map, List.mem_range, eq_comm]

theorem mem_gdtEntries {s : State} {g : Word} :
    e ∈ gdtEntries s.mem g ↔ ∃ n, n < (s.bank 0 (g + 3)).toNat ∧ e = s.bank 0 (g + 4 + BitVec.ofNat 16 n) :=
  mem_tableEntries

theorem mem_ldtEntries {s : State} {l : Word} {k : BankNo} : e ∈ ldtEntries s.mem l k ↔ l ≠ 0xffff ∧
    ∃ n, n < (s.bank k (s.bank k l)).toNat ∧ e = s.bank k (s.bank k l + 1 + BitVec.ofNat 16 n) := by
  rw [ldtEntries]
  split
  · next h => simp [h]
  · next h => rw [mem_tableEntries]; exact (and_iff_right h).symm

/-- The entries the walk reads for a bank are its descriptors (R71 to R73). -/
theorem State.descriptorFor_iff {s : State} {g : Word} {k : BankNo} : s.descriptorFor g k e ↔
    e ∈ gdtEntries s.mem g ++ ldtEntries s.mem (s.mem.word 0 (g + 2)) k := by
  rw [List.mem_append, mem_gdtEntries, mem_ldtEntries]
  rfl

end Entries

/-! ## The flags after a walk -/

section Walk

variable {k k' : BankNo} {p : Nat} {f : Flags}

/-- A combined flag is set if one of the two is. -/
theorem or_and_ne_zero (u v f : Flags) : (u ||| v) &&& f ≠ 0 ↔ u &&& f ≠ 0 ∨ v &&& f ≠ 0 := by
  rw [BitVec.and_comm, BitVec.and_or_distrib_left, BitVec.and_comm f u, BitVec.and_comm f v]
  exact (not_congr BitVec.or_eq_zero_iff).trans not_and_or

theorem flags_grantEntries (k k' : BankNo) (hp : p < Config.pages) (f : Flags) (es : List Word) : ∀ t : PermTable,
    ((es.foldl (grantEntry k) t).flags k' p &&& f ≠ 0 ↔
      t.flags k' p &&& f ≠ 0 ∨ k' = k ∧ ∃ e ∈ es, p ∈ entryCovers e ∧ entryFlags e &&& f ≠ 0) := by
  induction es with
  | nil => simp
  | cons e rest ih =>
    intro t
    have hone : (grantEntry k t e).flags k' p &&& f ≠ 0 ↔
        t.flags k' p &&& f ≠ 0 ∨ k' = k ∧ p ∈ entryCovers e ∧ entryFlags e &&& f ≠ 0 := by
      rw [flags_grantEntry k k' t e hp]
      split
      · next h => rw [or_and_ne_zero, and_iff_right h.1, and_iff_right h.2]
      · next h => exact (or_iff_left fun hc => h ⟨hc.1, hc.2.1⟩).symm
    rw [List.foldl_cons, ih, hone, or_assoc, ← and_or_left, List.exists_mem_cons_iff]

theorem flags_grantBanks (m : Memory) (g : Word) (k' : BankNo) (hp : p < Config.pages) (f : Flags) (ks : List BankNo) :
    ∀ t : PermTable, ((ks.foldl (grantBank m g) t).flags k' p &&& f ≠ 0 ↔ t.flags k' p &&& f ≠ 0 ∨
      k' ∈ ks ∧ ∃ e ∈ gdtEntries m g ++ ldtEntries m (m.word 0 (g + 2)) k',
        p ∈ entryCovers e ∧ entryFlags e &&& f ≠ 0) := by
  induction ks with
  | nil => simp
  | cons k rest ih =>
    intro t
    rw [List.foldl_cons, ih, grantBank, flags_grantEntries k k' hp f, or_assoc, List.mem_cons, or_and_right]
    refine or_congr_right (or_congr_left (and_congr_right fun h => ?_))
    rw [h]

/-- The compiled tables grant what the descriptors of the bank grant, and nothing that was compiled before (R76). -/
theorem flags_compiledTable (s : State) (g : Word) (k : BankNo) {p : Nat} (hp : p < 256) (x : Access) :
    (compiledTable s.mem g).flags k p &&& x.flag ≠ 0 ↔ ∃ e, s.descriptorFor g k e ∧ entryGrants e p x := by
  have hall : ∀ k : BankNo, k ∈ ([0, 1, 2, 3, 4, 5, 6, 7] : List BankNo) := by decide
  have hempty : PermTable.flags [] k p &&& x.flag = 0 := BitVec.zero_and
  rw [compiledTable, flags_grantBanks s.mem g k hp, hempty, and_iff_right (hall k)]
  simp only [ne_eq, not_true_eq_false, false_or, State.descriptorFor_iff, entryGrants_iff hp]

end Walk

/-- Settles O49: SRT sets the tables to the compiled ones, whose flags are those of the descriptors. -/
theorem srtCompilesTables : Obligations.SrtCompilesTables := by
  refine fun a s => ⟨rfl, fun hk => ⟨_, (exec_srt a s).trans (privileged_kernel hk _), fun k p x hp => ?flags, ?frame⟩,
    fun hu => exec_privileged_user a hu _ (by simp)⟩
  case flags => exact flags_compiledTable s (s.valueA a) k hp x
  case frame => exact State.leaves_moved _ _ _ (s.operandCycles a + 4)

end Sys2Proof.Machine
end

section
/-! The obligation of phase A (spec/60_exceptions.md R270, R303 to R305): the acts of the script one by one. -/

namespace Sys2Proof.Machine

/-! ## Acts that are allowed -/

section Acts

variable {s : State}

theorem State.deviceWrite_setQueue (s : State) (w : DeviceWrite) (q : List Word) :
    (s.setQueue q).deviceWrite w = (s.deviceWrite w).setQueue q := by
  cases w <;> rfl

theorem State.foldl_deviceWrite_setQueue (ws : List DeviceWrite) (q : List Word) :
    ∀ s : State, ws.foldl State.deviceWrite (s.setQueue q) = (ws.foldl State.deviceWrite s).setQueue q := by
  induction ws with
  | nil => exact fun _ => rfl
  | cons w rest ih =>
    intro s
    rw [List.foldl_cons, List.foldl_cons, State.deviceWrite_setQueue, ih]

theorem State.foldl_deviceWrite_setDeviceEvents (ws : List DeviceWrite) (es : List (List DeviceEvent)) :
    ∀ s : State, ws.foldl State.deviceWrite (s.setDeviceEvents es) =
      (ws.foldl State.deviceWrite s).setDeviceEvents es := by
  induction ws with
  | nil => exact fun _ => rfl
  | cons w rest ih =>
    intro s
    rw [List.foldl_cons, List.foldl_cons, ← ih]
    cases w <;> rfl

/-- What is allowed depends on the devices alone, so an act leaves it as it was. -/
theorem State.allows_congr {t : State} (h : t.devices = s.devices) (e : DeviceEvent) : t.Allows e ↔ s.Allows e := by
  cases e <;> simp only [State.Allows, h]

theorem deviceEvent_write {dev : Nat} {w : DeviceWrite} (h : s.Allows (.write dev w)) :
    deviceEvent (.write dev w) s = .next (s.deviceWrite w) := by
  obtain ⟨d, hd, hseen, hreach⟩ := h
  simp only [deviceEvent, hd, hseen, if_true, deviceWrites, if_pos (DeviceInfo.mayWrite_iff.2 hreach)]

theorem deviceEvent_forbidden {e : DeviceEvent} (h : ¬s.Allows e) : deviceEvent e s = .refused .invalidDevice := by
  cases e with
  | interrupt dev m => exact if_neg h
  | write dev w =>
    simp only [deviceEvent]
    split
    · next d hd =>
      split
      · next hseen =>
        exact deviceWrites_forbidden
          ⟨w, List.mem_singleton_self w, fun hw => h ⟨d, hd, hseen, DeviceInfo.mayWrite_iff.1 hw⟩⟩
      · rfl
    · rfl

/-- An allowed act, when its message finds room: the change is made, or the message appended. -/
theorem deviceEvent_allowed {e : DeviceEvent} (h : s.Allows e) (hq : s.queue.length + (messages [e]).length ≤ 256) :
    deviceEvent e s = .next (((changes [e]).foldl State.deviceWrite s).setQueue (s.queue ++ messages [e])) := by
  cases e with
  | interrupt dev m => exact (deviceEvent_interrupt m h).trans (enqueue_room m hq)
  | write dev w =>
    rw [deviceEvent_write h, messages, messages, List.append_nil, changes, changes, List.foldl_cons, List.foldl_nil,
      ← (State.deviceWrite_sameSystem s w).queue]
    rfl

theorem messages_cons (e : DeviceEvent) (es : List DeviceEvent) : messages (e :: es) = messages [e] ++ messages es := by
  cases e <;> rfl

theorem changes_cons (e : DeviceEvent) (es : List DeviceEvent) : changes (e :: es) = changes [e] ++ changes es := by
  cases e <;> rfl

theorem State.foldl_deviceWrite_devices (ws : List DeviceWrite) :
    ∀ s : State, (ws.foldl State.deviceWrite s).devices = s.devices := by
  induction ws with
  | nil => exact fun _ => rfl
  | cons w rest ih => exact fun s => (ih _).trans (State.deviceWrite_sameSystem s w).devices

/-- Allowed acts are performed in order: the changes one after the other, the messages at the end of the queue. -/
theorem deviceEvents_allowed (es : List DeviceEvent) : ∀ s : State, (∀ e ∈ es, s.Allows e) →
    s.queue.length + (messages es).length ≤ 256 →
    deviceEvents es s = .next (((changes es).foldl State.deviceWrite s).setQueue (s.queue ++ messages es)) := by
  induction es with
  | nil =>
    intro s _ _
    rw [messages, List.append_nil]
    rfl
  | cons e rest ih =>
    intro s hall hq
    rw [messages_cons, List.length_append] at hq
    obtain ⟨he, hrest⟩ := List.forall_mem_cons.1 hall
    rw [deviceEvents, deviceEvent_allowed he (by omega), andThen, ih]
    · rw [State.foldl_deviceWrite_setQueue, messages_cons e rest, changes_cons e rest, List.foldl_append,
        ← List.append_assoc]
      rfl
    · exact fun e' he' => (State.allows_congr (State.foldl_deviceWrite_devices _ s) e').2 (hrest e' he')
    · rw [State.setQueue_queue, List.length_append]
      omega

/-- The first act that is not allowed is refused, whatever was done before. -/
theorem deviceEvents_forbidden (es : List DeviceEvent) : ∀ s : State, (∃ e ∈ es, ¬s.Allows e) →
    s.queue.length + (messages es).length ≤ 256 → deviceEvents es s = .refused .invalidDevice := by
  induction es with
  | nil => rintro s ⟨_, h, _⟩; cases h
  | cons e rest ih =>
    intro s hex hq
    rw [messages_cons, List.length_append] at hq
    by_cases he : s.Allows e
    · rw [deviceEvents, deviceEvent_allowed he (by omega), andThen]
      refine ih _ ?_ (by rw [State.setQueue_queue, List.length_append]; omega)
      obtain ⟨e', he', hno⟩ := hex
      obtain rfl | he' := List.mem_cons.1 he'
      · exact absurd he hno
      · exact ⟨e', he', fun h => hno ((State.allows_congr (State.foldl_deviceWrite_devices _ s) e').1 h)⟩
    · rw [deviceEvents, deviceEvent_forbidden he, andThen]

end Acts

/-- Settles O51: the head of the script is performed or refused, and every act stays within its frame. -/
theorem devicePhaseConfined : Obligations.DevicePhaseConfined := by
  refine ⟨fun s hall hq => ?performed, State.deviceWrite_changed, fun s hex hq => ?refused, fun s t h => ?confined⟩
  case performed =>
    rw [devicePhase, deviceEvents_allowed _ (s.setDeviceEvents s.deviceEvents.tail)
      (fun e he => (State.allows_congr rfl e).2 (hall e he)) hq, State.foldl_deviceWrite_setDeviceEvents]
    rfl
  case refused =>
    obtain ⟨e, he, hno⟩ := hex
    exact deviceEvents_forbidden _ _ ⟨e, he, fun h => hno ((State.allows_congr rfl e).1 h)⟩ hq
  case confined =>
    have ha := devicePhase_next h
    exact ⟨ha.ia, ha.mb, ha.rm, ha.iq, ha.srtCalled, ha.perm, ha.gdtMsg, ha.onFire, ha.devices, ha.queue, ha.bank,
      ha.quiet⟩

end Sys2Proof.Machine
end

section
/-! The obligation of EX (spec/10_state.md R27): what every shape of instruction does to EX, and each instruction as one
of these shapes. -/

namespace Sys2Proof.Machine

section ExShapes

variable {s t : State} {b : BOperand} {a : AOperand} {cost : Nat}

theorem Operand.eq_ex_of_loc {o : Operand} (h : Operand.loc o s = .ex) : o = .ex := by
  cases o with
  | ex => rfl
  | _ => cases h

/-- The only operand at EX is EX itself (40_operands.md R143). -/
theorem BOperand.eq_ex_of_loc (h : BOperand.loc b s = .ex) : b = .op .ex := by
  cases b with
  | op o => rw [Operand.eq_ex_of_loc h]
  | push => cases h

theorem AOperand.eq_ex_of_loc (h : AOperand.loc a s = .ex) : a = .op .ex := by
  cases a with
  | op o => rw [Operand.eq_ex_of_loc h]
  | pop => cases h
  | short v => cases h

/-- An instruction that writes one location and gives EX nothing changes EX as that location. -/
theorem State.Leaves.loc_of_ex_ne {pc sp v : Word} {l : Loc} (h : s.Leaves t pc sp l v none) (hne : t.ex ≠ s.ex) :
    l = .ex := by
  by_contra hl
  exact hne (h.ex_eq.trans (if_neg hl))

theorem State.SetsB.operand_of_ex_ne {v : Word} (h : s.SetsB t b a v none) (hne : t.ex ≠ s.ex) : b = .op .ex :=
  BOperand.eq_ex_of_loc (State.Leaves.loc_of_ex_ne h hne)

theorem State.SetsA.operand_of_ex_ne {v : Word} (h : s.SetsA t a v) (hne : t.ex ≠ s.ex) : a = .op .ex :=
  AOperand.eq_ex_of_loc (State.Leaves.loc_of_ex_ne h hne)

theorem raiseGpf_ex {g : Gpf} {r : Word} {n : Nat} (h : raiseGpf g r (s.addCycles n) = .next t) : t.ex = s.ex :=
  (triggerSoft_triggered h).ex

theorem readModifyWrite_ex {f : Word → Word → Word → Word × Option Word} (hf : ∀ ex vb va, (f ex vb va).2 = none)
    (h : readModifyWrite cost f b a s = .next t) (hne : t.ex ≠ s.ex) : some b = some (.op .ex) := by
  rcases readModifyWrite_next h with h | ⟨_, _, h⟩
  · exact absurd h.triggered.ex hne
  · rw [hf] at h
    rw [h.operand_of_ex_ne hne]

theorem moveThen_ex {after : State → State} (h : moveThen cost after b a s = .next t) (hne : t.ex ≠ s.ex)
    (hafter : ∀ t n, after (State.addCycles t n) = (after t).addCycles n) (hex : ∀ u, (after u).ex = u.ex) :
    some b = some (.op .ex) := by
  rcases moveThen_next hafter h with h | ⟨_, u, n, rfl, _, h⟩
  · exact absurd h.triggered.ex hne
  · rw [h.operand_of_ex_ne fun he => hne ((hex u).trans he)]

theorem setOperand_ex {value : State → Word} {after : State → State}
    (h : setOperand cost value after a s = .next t) (hne : t.ex ≠ s.ex)
    (hvalue : ∀ (t : State) n, value (t.addCycles n) = value t)
    (hafter : ∀ (t : State) n, after (t.addCycles n) = (after t).addCycles n) (hex : ∀ u, (after u).ex = u.ex) :
    a = .op .ex := by
  rcases setOperand_next hvalue hafter h with h | ⟨_, u, n, rfl, _, h⟩
  · exact absurd h.triggered.ex hne
  · exact h.operand_of_ex_ne fun he => hne ((hex u).trans he)

theorem conditional_ex {cond : Word → Word → Bool} (h : conditional cond b a s = .next t) : t.ex = s.ex := by
  rcases conditional_next h with h | ⟨p, c, rfl⟩
  · exact h.triggered.ex
  · rfl

/-- A privileged instruction that leaves EX alone in kernel mode leaves it alone. -/
theorem privileged_ex {act : Word → State → Result} (hact : ∀ va u t, act va u = .next t → t.ex = u.ex)
    (h : kernelOnly (specialLength a) s (withValue a s fun va u => .ok (act va u)) = .next t) : t.ex = s.ex := by
  rcases kernelOnly_withValue h with h | ⟨_, c, h⟩
  · exact h.triggered.ex
  · exact hact _ ((s.afterA a).addCycles c) _ h

theorem queryDevice_ex (va : Word) (u : State) : (queryDevice va u).ex = u.ex := by
  obtain ⟨_, _, _, _, _, _, h⟩ := queryDevice_frame va u
  rw [h]
  rfl

theorem exec_rfi_ex (h : exec (.rfi a) s = .next t) : t.ex = s.ex := by
  by_cases hk : s.rm = 0
  · rw [exec_rfi_kernel hk] at h
    cases h
    rfl
  · rw [exec_privileged_user a hk _ (by simp)] at h
    exact raiseGpf_ex h

theorem exec_hwn_ex (h : exec (.hwn a) s = .next t) (hne : t.ex ≠ s.ex) : a = .op .ex := by
  rw [exec_hwn] at h
  rcases kernelOnly_next h with ⟨_, h⟩ | ⟨_, h⟩
  · exact setOperand_ex h hne (fun _ _ => rfl) (fun _ _ => rfl) (fun _ => rfl)
  · exact absurd (raiseGpf_ex h) hne

theorem exec_int_ex (h : exec (.int a) s = .next t) : t.ex = s.ex := by
  by_cases ha : s.allowsSource a = true
  · rw [exec_int_allowed ha] at h
    exact (triggerSoft_triggered h).ex
  · rw [exec_int, withValue_denied (Bool.eq_false_iff.2 ha)] at h
    exact raiseGpf_ex h

theorem exec_jsr_ex (h : exec (.jsr a) s = .next t) : t.ex = s.ex := by
  obtain ⟨_, hallowed, hdenied⟩ := jsrResult a s
  by_cases ha : s.allowsSource a = true ∧ s.permits .write (s.spAfterA a - 1) = true
  · obtain ⟨u, hu, hl⟩ := hallowed ha.1 ha.2
    rw [hu] at h
    cases h
    exact hl.ex_eq
  · rw [hdenied ((not_and_or.1 ha).imp Bool.eq_false_iff.2 Bool.eq_false_iff.2)] at h
    exact raiseGpf_ex h

end ExShapes

/-- Settles O57: the eleven set EX by themselves, the others by their destination, and HWI by its device. -/
theorem exWriters : Obligations.ExWriters := by
  intro i s t h hne
  cases i with
  | add b a => exact .inl ⟨b, a, by simp⟩
  | sub b a => exact .inl ⟨b, a, by simp⟩
  | mul b a => exact .inl ⟨b, a, by simp⟩
  | mli b a => exact .inl ⟨b, a, by simp⟩
  | div b a => exact .inl ⟨b, a, by simp⟩
  | dvi b a => exact .inl ⟨b, a, by simp⟩
  | shr b a => exact .inl ⟨b, a, by simp⟩
  | asr b a => exact .inl ⟨b, a, by simp⟩
  | shl b a => exact .inl ⟨b, a, by simp⟩
  | adx b a => exact .inl ⟨b, a, by simp⟩
  | sbx b a => exact .inl ⟨b, a, by simp⟩
  | set b a => exact .inr (.inl (moveThen_ex ((exec_set b a s).symm.trans h) hne (fun _ _ => rfl) fun _ => rfl))
  | sti b a =>
    exact .inr (.inl (moveThen_ex ((exec_sti b a s).symm.trans h) hne (fun u n => u.stepIJ_addCycles n _)
      fun u => u.stepIJ_ex _))
  | std b a =>
    exact .inr (.inl (moveThen_ex ((exec_std b a s).symm.trans h) hne (fun u n => u.stepIJ_addCycles n _)
      fun u => u.stepIJ_ex _))
  | mod b a =>
    exact .inr (.inl (readModifyWrite_ex (fun _ _ _ => by rw [modOut_eq]) ((exec_mod b a s).symm.trans h) hne))
  | mdi b a =>
    exact .inr (.inl (readModifyWrite_ex (fun _ _ _ => by rw [mdiOut_eq]) ((exec_mdi b a s).symm.trans h) hne))
  | and b a => exact .inr (.inl (readModifyWrite_ex (fun _ _ _ => rfl) ((exec_and b a s).symm.trans h) hne))
  | bor b a => exact .inr (.inl (readModifyWrite_ex (fun _ _ _ => rfl) ((exec_bor b a s).symm.trans h) hne))
  | xor b a => exact .inr (.inl (readModifyWrite_ex (fun _ _ _ => rfl) ((exec_xor b a s).symm.trans h) hne))
  | ifb b a => exact absurd (conditional_ex ((exec_ifb b a s).symm.trans h)) hne
  | ifc b a => exact absurd (conditional_ex ((exec_ifc b a s).symm.trans h)) hne
  | ife b a => exact absurd (conditional_ex ((exec_ife b a s).symm.trans h)) hne
  | ifn b a => exact absurd (conditional_ex ((exec_ifn b a s).symm.trans h)) hne
  | ifg b a => exact absurd (conditional_ex ((exec_ifg b a s).symm.trans h)) hne
  | ifa b a => exact absurd (conditional_ex ((exec_ifa b a s).symm.trans h)) hne
  | ifl b a => exact absurd (conditional_ex ((exec_ifl b a s).symm.trans h)) hne
  | ifu b a => exact absurd (conditional_ex ((exec_ifu b a s).symm.trans h)) hne
  | jsr a => exact absurd (exec_jsr_ex h) hne
  | int a => exact absurd (exec_int_ex h) hne
  | rfi a => exact absurd (exec_rfi_ex h) hne
  | mbo a => exact absurd (privileged_ex (fun _ _ _ h => by cases h; rfl) ((exec_mbo a s).symm.trans h)) hne
  | ias a => exact absurd (privileged_ex (fun _ _ _ h => by cases h; rfl) ((exec_ias a s).symm.trans h)) hne
  | iaq a => exact absurd (privileged_ex (fun _ _ _ h => by cases h; rfl) ((exec_iaq a s).symm.trans h)) hne
  | hwq a =>
    exact absurd (privileged_ex (fun va u _ h => by cases h; exact queryDevice_ex va u)
      ((exec_hwq a s).symm.trans h)) hne
  | srt a => exact absurd (privileged_ex (fun _ _ _ h => by cases h; rfl) ((exec_srt a s).symm.trans h)) hne
  | hwi a => exact .inr (.inr (.inl ⟨a, rfl⟩))
  | mbg a =>
    simp [setOperand_ex ((exec_mbg a s).symm.trans h) hne (fun _ _ => rfl) (fun _ _ => rfl) fun _ => rfl]
  | iag a =>
    simp [setOperand_ex ((exec_iag a s).symm.trans h) hne (fun _ _ => rfl) (fun _ _ => rfl) fun _ => rfl]
  | grm a =>
    simp [setOperand_ex ((exec_grm a s).symm.trans h) hne (fun _ _ => rfl) (fun _ _ => rfl) fun _ => rfl]
  | drm a =>
    simp [setOperand_ex ((exec_drm a s).symm.trans h) hne (fun _ _ => rfl) (fun _ _ => rfl) fun _ => rfl]
  | hwn a => simp [exec_hwn_ex h hne]
  | _ => cases h

end Sys2Proof.Machine
end

section
/-! The obligations of the cycles (spec/70_reset_and_hazards.md R340 to R344): for every shape of instruction its own
cost, one cycle for each next word and, in user mode, one for each checked access. -/

namespace Sys2Proof.Machine

/-! ## The words and checks of basic instructions -/

section OperandCycles

variable {s : State} {b : BOperand} {a : AOperand}

/-- The cycles of the words and checks of an instruction that reads and writes b. -/
def State.readModifyWriteCycles (s : State) (b : BOperand) (a : AOperand) : Nat :=
  a.words + b.words + s.checkCycles (1 + a.words + b.words + (s.locA a).accesses + 2 * (s.locB b a).accesses)

theorem State.readModifyWriteCycles_kernel (h : s.userMode = false) :
    s.readModifyWriteCycles b a = a.words + b.words := by
  rw [State.readModifyWriteCycles, State.checkCycles_kernel h, Nat.add_zero]

theorem State.readModifyWriteCycles_user (hu : s.userMode = true) (ha : s.allowsReadModifyWrite b a = true) :
    s.readModifyWriteCycles b a = s.userCycles (s.readModifyWriteAccesses b a) := by
  rw [State.readModifyWriteCycles, State.checkCycles_user hu, State.userCycles_readModifyWrite ha]

/-- Writing b costs as much as reading it. -/
theorem State.compareCycles_move (hu : s.userMode = true) (ha : s.allowsMove b a = true) :
    s.compareCycles b a = s.userCycles (s.moveAccesses b a) := by
  rw [State.compareCycles, State.checkCycles_user hu, State.userCycles_move ha]

end OperandCycles

/-! ## The cycles of every shape -/

section ShapeCycles

variable {s t : State} {b : BOperand} {a : AOperand} {i : Instr} {cost : Nat}

theorem next_cycles {r : Result} {u : State} (hr : r = .next u) (h : r = .next t) : t.cycles = u.cycles := by
  cases hr.symm.trans h
  rfl

theorem readModifyWrite_cycles {f : Word → Word → Word → Word × Option Word} (ha : s.allowsReadModifyWrite b a = true)
    (hi : exec i s = readModifyWrite cost f b a s) (h : exec i s = .next t) :
    t.cycles = s.cycles + cost + s.readModifyWriteCycles b a := by
  rw [readModifyWrite_eq, if_pos ha] at hi
  rw [next_cycles hi h, State.addCycles_cycles, State.setExIf_cycles, State.store_cycles, State.afterAB_cycles,
    State.readModifyWriteCycles]
  omega

theorem moveThen_cycles {after : State → State} (ha : s.allowsMove b a = true)
    (hi : exec i s = moveThen cost after b a s) (h : exec i s = .next t)
    (hafter : ∀ t n, after (State.addCycles t n) = (after t).addCycles n)
    (hcycles : ∀ u, (after u).cycles = u.cycles) : t.cycles = s.cycles + cost + s.compareCycles b a := by
  rw [moveThen_eq b a s cost after hafter, if_pos ha] at hi
  rw [next_cycles hi h, State.addCycles_cycles, hcycles, State.store_cycles, State.afterAB_cycles, State.compareCycles]
  omega

theorem setOperand_cycles {value : State → Word} {after : State → State} (ha : s.allowsTarget a = true)
    (hi : exec i s = setOperand cost value after a s) (h : exec i s = .next t)
    (hvalue : ∀ (t : State) n, value (t.addCycles n) = value t)
    (hafter : ∀ (t : State) n, after (t.addCycles n) = (after t).addCycles n)
    (hcycles : ∀ u, (after u).cycles = u.cycles) : t.cycles = s.cycles + cost + s.operandCycles a := by
  rw [setOperand_eq a s cost value after hvalue hafter, if_pos ha] at hi
  rw [next_cycles hi h, State.addCycles_cycles, hcycles, State.store_cycles, State.afterA_cycles, State.operandCycles]
  omega

theorem State.stepIJ_cycles (u : State) (d : Word) : (u.stepIJ d).cycles = u.cycles := rfl

/-- A conditional that completes: 2 cycles, and those of the chain it skips. -/
theorem conditionals_cycles (ha : s.allowsCompare b a = true) {p : Instr × Prop}
    (hp : p ∈ conditionals b a (s.valueB b a) (s.valueA a)) (h : exec p.1 s = .next t) :
    (p.2 → t.cycles = s.cycles + 2 + s.compareCycles b a) ∧
      (¬p.2 → ∀ n, s.skipChainAt n (s.pcAfterAB b a) →
        t.cycles = s.cycles + 2 + s.compareCycles b a + (n + 1 + s.checkCycles (n + 1))) := by
  obtain ⟨cond, hexec, hcond⟩ := conditionals_cond p hp
  refine ⟨fun hholds => ?_, fun hfails n hchain => ?_⟩
  · rw [next_cycles ((hexec s).trans (conditional_passes ha (hcond.2 hholds))) h, State.addCycles_cycles,
      State.setSp_cycles, State.setPc_cycles]
    omega
  · have hc := Bool.eq_false_iff.2 (mt hcond.1 hfails)
    rw [next_cycles ((hexec s).trans (conditional_skips ha hc hchain)) h, State.addCycles_cycles, State.setSp_cycles,
      State.setPc_cycles]
    omega

theorem State.readA_cycles : (s.readA a).cycles = s.cycles + s.operandCycles a := rfl

/-- A privileged instruction in kernel mode, from the cycles of its own act. -/
theorem privileged_cycles {act : Word → State → Result} (hk : s.rm = 0) (hi : exec i s =
      kernelOnly (specialLength a) s (withValue a s fun va u => .ok (act va u))) (h : exec i s = .next t)
    (hact : act (s.valueA a) (s.readA a) = .next t → t.cycles = (s.readA a).cycles + cost) :
    t.cycles = s.cycles + cost + s.operandCycles a := by
  rw [privileged_kernel hk] at hi
  rw [hact (hi.symm.trans h), State.readA_cycles]
  omega

theorem exec_jsr_cycles (ha : s.allowsSource a = true) (hp : s.permits .write (s.spAfterA a - 1) = true)
    (h : exec (.jsr a) s = .next t) : t.cycles = s.cycles + 3 + (s.operandCycles a + s.checkCycles 1) := by
  rw [next_cycles (exec_jsr_allowed ha hp) h, State.addCycles_cycles, State.store_cycles, State.setSp_cycles,
    State.setPc_cycles]
  omega

theorem exec_rfi_cycles (hk : s.rm = 0) (h : exec (.rfi a) s = .next t) :
    t.cycles = s.cycles + 3 + s.operandCycles a := by
  rw [next_cycles (exec_rfi_kernel hk) h, State.addCycles_cycles, State.store_cycles, State.setSp_cycles,
    State.setPc_cycles, State.returned, State.setRm_cycles, State.setIq_cycles]
  omega

/-- A software interrupt that enters the handler costs the checks of its pushes. -/
theorem triggerSoft_cycles {m : Word} (h : triggerSoft m s = .next t) :
    ((s.iq = true ∨ s.ia = 0) → t.cycles = s.cycles) ∧
      (s.iq = false → s.ia ≠ 0 → t.cycles = s.cycles + s.checkCycles s.frameWords) := by
  rcases triggerSoft_next h with ⟨hq, _, rfl⟩ | ⟨_, hi, rfl⟩ | ⟨hq, hi, _, rfl⟩
  · exact ⟨fun _ => rfl, fun hq' => absurd (hq.symm.trans hq') (by decide)⟩
  · exact ⟨fun _ => rfl, fun _ hi' => absurd hi hi'⟩
  · refine ⟨fun hor => ?_, fun _ _ => rfl⟩
    rcases hor with hq' | hi'
    · exact absurd (hq'.symm.trans hq) (by decide)
    · exact absurd hi' hi

theorem exec_int_cycles (ha : s.allowsSource a = true) (h : exec (.int a) s = .next t) :
    ((s.iq = true ∨ s.ia = 0) → t.cycles = s.cycles + 4 + s.operandCycles a) ∧
      (s.iq = false → s.ia ≠ 0 →
        t.cycles = s.cycles + 4 + s.operandCycles a + s.checkCycles s.frameWords) := by
  rw [exec_int_allowed ha] at h
  obtain ⟨hstays, henters⟩ := triggerSoft_cycles h
  have hread : ((s.readA a).addCycles 4).cycles = s.cycles + 4 + s.operandCycles a := by
    rw [State.addCycles_cycles, State.readA_cycles]
    omega
  exact ⟨fun hor => (hstays hor).trans hread, fun hq hi => (henters hq hi).trans (congrArg (· + _) hread)⟩

theorem queryDevice_cycles (va : Word) (s : State) : (queryDevice va s).cycles = s.cycles := by
  obtain ⟨_, _, _, _, _, _, h⟩ := queryDevice_frame va s
  rw [h]
  rfl

theorem sendHwi_cycles {va : Word} (h : sendHwi va s = .next t) :
    t.cycles = s.cycles + (4 + s.hwiAnswer.extraCycles) := by
  obtain ⟨_, _, h⟩ := sendHwi_next h
  exact (deviceWrites_next h).2.1

/-- The two surcharges of MBO (R342). -/
theorem mboCycles_eq (va : Word) (mb : BankNo) : mboCycles va mb =
    1 + (if mboSource va ≠ mboDest va then 64 else 0) + (if mb ≠ mboSelect va then 8 else 0) := by
  simp only [mboCycles, ne_eq, ite_not, eq_comm]

end ShapeCycles

/-! ## The cycles of every family of instructions -/

section FamilyCycles

variable {s t : State} {b : BOperand} {a : AOperand}

/-- SET costs 1, STI and STD cost 2 (R341). -/
theorem moves_cycles (ha : s.allowsMove b a = true) :
    (exec (.set b a) s = .next t → t.cycles = s.cycles + 1 + s.compareCycles b a) ∧
      ∀ i ∈ [Instr.sti b a, .std b a], exec i s = .next t → t.cycles = s.cycles + 2 + s.compareCycles b a := by
  simp only [List.forall_mem_cons, List.not_mem_nil, false_implies, implies_true, and_true]
  exact ⟨fun h => moveThen_cycles ha (exec_set b a s) h (fun _ _ => rfl) fun _ => rfl,
    fun h => moveThen_cycles ha (exec_sti b a s) h (fun u n => u.stepIJ_addCycles n _) fun u => u.stepIJ_cycles _,
    fun h => moveThen_cycles ha (exec_std b a s) h (fun u n => u.stepIJ_addCycles n _) fun u => u.stepIJ_cycles _⟩

/-- Logic and shifts cost 1, sums and products 2, quotients, remainders and carry arithmetic 3 (R341). -/
theorem readModifyWrites_cycles (ha : s.allowsReadModifyWrite b a = true) :
    (∀ i ∈ [Instr.and b a, .bor b a, .xor b a, .shr b a, .asr b a, .shl b a], exec i s = .next t →
      t.cycles = s.cycles + 1 + s.readModifyWriteCycles b a) ∧
    (∀ i ∈ [Instr.add b a, .sub b a, .mul b a, .mli b a], exec i s = .next t →
      t.cycles = s.cycles + 2 + s.readModifyWriteCycles b a) ∧
    (∀ i ∈ [Instr.div b a, .dvi b a, .mod b a, .mdi b a, .adx b a, .sbx b a], exec i s = .next t →
      t.cycles = s.cycles + 3 + s.readModifyWriteCycles b a) := by
  have hrmw {i cost f} (hi : exec i s = readModifyWrite cost f b a s) (h : exec i s = .next t) :=
    readModifyWrite_cycles ha hi h
  simp only [List.forall_mem_cons, List.not_mem_nil, false_implies, implies_true, and_true]
  exact ⟨⟨hrmw (exec_and b a s), hrmw (exec_bor b a s), hrmw (exec_xor b a s), hrmw (exec_shr b a s),
      hrmw (exec_asr b a s), hrmw (exec_shl b a s)⟩,
    ⟨hrmw (exec_add b a s), hrmw (exec_sub b a s), hrmw (exec_mul b a s), hrmw (exec_mli b a s)⟩,
    hrmw (exec_div b a s), hrmw (exec_dvi b a s), hrmw (exec_mod b a s), hrmw (exec_mdi b a s), hrmw (exec_adx b a s),
    hrmw (exec_sbx b a s)⟩

/-- MBG and IAG cost 1, GRM and DRM cost 2 (R341). -/
theorem targets_cycles (ha : s.allowsTarget a = true) :
    (∀ i ∈ [Instr.mbg a, .iag a], exec i s = .next t → t.cycles = s.cycles + 1 + s.operandCycles a) ∧
      ∀ i ∈ [Instr.grm a, .drm a], exec i s = .next t → t.cycles = s.cycles + 2 + s.operandCycles a := by
  simp only [List.forall_mem_cons, List.not_mem_nil, false_implies, implies_true, and_true]
  exact ⟨⟨fun h => setOperand_cycles ha (exec_mbg a s) h (fun _ _ => rfl) (fun _ _ => rfl) fun _ => rfl,
      fun h => setOperand_cycles ha (exec_iag a s) h (fun _ _ => rfl) (fun _ _ => rfl) fun _ => rfl⟩,
    fun h => setOperand_cycles ha (exec_grm a s) h (fun _ _ => rfl) (fun _ _ => rfl) fun _ => rfl,
    fun h => setOperand_cycles ha (exec_drm a s) h (fun _ _ => rfl) (fun _ _ => rfl) fun _ => rfl⟩

/-- The privileged instructions of fixed cost, in kernel mode: IAS 1, IAQ and HWN 2, RFI 3, HWQ and SRT 4 (R341). -/
theorem privileged_fixed_cycles (hk : s.rm = 0) :
    (exec (.ias a) s = .next t → t.cycles = s.cycles + 1 + s.operandCycles a) ∧
    (∀ i ∈ [Instr.iaq a, .hwn a], exec i s = .next t → t.cycles = s.cycles + 2 + s.operandCycles a) ∧
    (exec (.rfi a) s = .next t → t.cycles = s.cycles + 3 + s.operandCycles a) ∧
    (∀ i ∈ [Instr.hwq a, .srt a], exec i s = .next t → t.cycles = s.cycles + 4 + s.operandCycles a) := by
  have hm : s.userMode = false := State.userMode_eq_false_iff.2 hk
  simp only [List.forall_mem_cons, List.not_mem_nil, false_implies, implies_true, and_true]
  exact ⟨fun h => privileged_cycles hk (exec_ias a s) h fun hc => by cases hc; rfl,
    ⟨fun h => privileged_cycles hk (exec_iaq a s) h fun hc => by cases hc; rfl,
      fun h => setOperand_cycles (s.allowsTarget_kernel a hm) ((exec_hwn a s).trans (kernelOnly_kernel hm _ _)) h
        (fun _ _ => rfl) (fun _ _ => rfl) fun _ => rfl⟩,
    exec_rfi_cycles hk,
    fun h => privileged_cycles hk (exec_hwq a s) h fun hc => by
      cases hc
      exact congrArg (· + 4) (queryDevice_cycles _ _),
    fun h => privileged_cycles hk (exec_srt a s) h fun hc => by cases hc; rfl⟩

/-- In kernel mode an INT pays nothing for its pushes. -/
theorem exec_int_cycles_kernel (hk : s.rm = 0) (h : exec (.int a) s = .next t) :
    t.cycles = s.cycles + 4 + s.operandCycles a := by
  have hm : s.userMode = false := State.userMode_eq_false_iff.2 hk
  obtain ⟨hstays, henters⟩ := exec_int_cycles (s.allowsSource_kernel a hm) h
  by_cases hor : s.iq = true ∨ s.ia = 0
  · exact hstays hor
  · rw [not_or] at hor
    rw [henters (Bool.eq_false_iff.2 hor.1) hor.2, State.checkCycles_kernel hm, Nat.add_zero]

end FamilyCycles

/-! ## The obligations -/

/-- Settles O50: in kernel mode nothing is checked, so the words and checks of each family are its next words. -/
theorem cycleCosts : Obligations.CycleCosts := by
  intro b a s t hk
  have hm : s.userMode = false := State.userMode_eq_false_iff.2 hk
  have hmoves := moves_cycles (t := t) (s.allowsMove_kernel b a hm)
  have hrmw := readModifyWrites_cycles (t := t) (s.allowsReadModifyWrite_kernel b a hm)
  have htargets := targets_cycles (t := t) (s.allowsTarget_kernel a hm)
  have hpriv := privileged_fixed_cycles (t := t) (a := a) hk
  simp only [State.compareCycles_kernel hm, State.readModifyWriteCycles_kernel hm, State.operandCycles_kernel hm,
    ← Nat.add_assoc] at hmoves hrmw htargets hpriv
  obtain ⟨hset, hstep⟩ := hmoves
  obtain ⟨hrmw1, hrmw2, hrmw3⟩ := hrmw
  obtain ⟨htarget1, htarget2⟩ := htargets
  obtain ⟨hias, hpriv2, hrfi, hpriv4⟩ := hpriv
  refine ⟨List.forall_mem_cons.2 ⟨hset, hrmw1⟩, fun i hi => ?cost2, hrmw3, fun p hp h => ?conditionals,
    fun i hi => ?special1, fun h => ?mbo, fun i hi => ?special2, ?special3,
    List.forall_mem_cons.2 ⟨fun h => ?int, hpriv4⟩, fun h => ?hwi⟩
  case cost2 => exact (List.mem_append (s := [_, _, _, _]).1 hi).elim (hrmw2 i) (hstep i)
  case special1 =>
    refine (List.mem_append (s := [_, _]).1 hi).elim (htarget1 i) fun hi => ?_
    rw [List.mem_singleton.1 hi]
    exact hias
  case special2 => exact (List.mem_append (s := [_, _]).1 hi).elim (hpriv2 i) (htarget2 i)
  case special3 =>
    refine List.forall_mem_cons.2 ⟨fun h => ?_, List.forall_mem_singleton.2 hrfi⟩
    rw [exec_jsr_cycles (s.allowsSource_kernel a hm) (State.permits_kernel hm _ _) h, State.operandCycles_kernel hm,
      State.checkCycles_kernel hm]
    rfl
  case int => rw [exec_int_cycles_kernel hk h, State.operandCycles_kernel hm]
  case conditionals =>
    obtain ⟨hpass, hfail⟩ := conditionals_cycles (s.allowsCompare_kernel b a hm) hp h
    rw [State.compareCycles_kernel hm] at hpass hfail
    refine ⟨fun hholds => by rw [hpass hholds]; omega, fun hfails n hchain => ?_⟩
    rw [hfail hfails n hchain, State.checkCycles_kernel hm]
    omega
  case mbo =>
    have hcost := privileged_cycles hk (exec_mbo a s) h fun hc => by cases hc; rfl
    have hmb : mboCycles (s.valueA a) (s.readA a).mb = mboCycles (s.valueA a) s.mb := rfl
    rw [hcost, hmb, mboCycles_eq, State.operandCycles_kernel hm, ← Nat.add_assoc, ← Nat.add_assoc]
    rfl
  case hwi =>
    rw [privileged_cycles hk (exec_hwi a s) h sendHwi_cycles, State.operandCycles_kernel hm, ← Nat.add_assoc]
    rfl

/-- Settles O59: in user mode the words and checks of each family are those of its list of accesses. -/
theorem checkCosts : Obligations.CheckCosts := by
  intro b a s t hrm
  have hu : s.userMode = true := State.userMode_iff.2 hrm
  refine ⟨fun ha => ?move, fun ha => ?readModifyWrite, fun ha p hp h => ?conditionals, fun ha => ?target,
    fun ha hp h => ?jsr, fun ha h => ?int⟩
  case move => exact State.compareCycles_move hu ha ▸ moves_cycles ha
  case readModifyWrite => exact State.readModifyWriteCycles_user hu ha ▸ readModifyWrites_cycles ha
  case target => exact State.operandCycles_target hu ha ▸ targets_cycles ha
  case conditionals =>
    obtain ⟨hpass, hfail⟩ := conditionals_cycles ha hp h
    rw [State.compareCycles_user hu ha] at hpass hfail
    refine ⟨hpass, fun hfails n hchain => ?_⟩
    rw [hfail hfails n hchain, State.checkCycles_user hu]
    omega
  case jsr =>
    rw [exec_jsr_cycles ha hp h, State.userCycles_jsr ha, ← State.userCycles_source ha,
      State.operandCycles_source hu ha, State.checkCycles_user hu]
  case int =>
    obtain ⟨hstays, henters⟩ := exec_int_cycles ha h
    rw [State.operandCycles_source hu ha, State.checkCycles_user hu] at henters
    rw [State.operandCycles_source hu ha] at hstays
    exact ⟨hstays, henters⟩

end Sys2Proof.Machine
end
